-- ==== Sys2Proof/Word.lean ====
section
/-! DEFINITION. The words the block moves: bytes and 32-bit command words (spec/30_encoding.md R60, spec/20_memory.md R47). -/

namespace Sys2Proof

/-- An 8-bit value; bit 0 is its least significant bit (R7). -/
abbrev Byte := BitVec 8

/-- One 32-bit command word CMD on the command port (R60). -/
abbrev CmdWord := BitVec 32

/-- A normalized key or IV, or a staging buffer: 10 bytes, index 0 first (R29, R100). -/
abbrev TenBytes := Vector Byte 10

/-- Ten 0x00 bytes. -/
def TenBytes.zero : TenBytes := Vector.replicate 10 0#8

end Sys2Proof
end

