-- ==== Sys2Proof/Machine/Operands.lean ====
section
/-! DEFINITION. The fields of a command word and the three operand forms (spec/30_encoding.md R60 to R63). -/

namespace Sys2Proof.Machine

/-- OPC = CMD[31:24] (R60). -/
def opcField (w : CmdWord) : BitVec 8 := w.extractLsb' 24 8

/-- OPND = CMD[23:0] (R60). Form N requires it to be 0 (R61). -/
def opndField (w : CmdWord) : BitVec 24 := w.extractLsb' 0 24

/-- Form B: DATA = CMD[7:0], read with zext_8 (R62). -/
def dataField (w : CmdWord) : Byte := w.extractLsb' 0 8

/-- Form B: the reserved bits CMD[23:8], which must be 0 (R62). -/
def reservedField (w : CmdWord) : BitVec 16 := w.extractLsb' 8 16

/-- Form L: n = sext_24(CMD[23:0]) (R63). -/
def lengthField (w : CmdWord) : Int := (opndField w).toInt

/-- A word from its OPC and OPND fields (R60). -/
def packWord (opc : BitVec 8) (opnd : BitVec 24) : CmdWord := opc ++ opnd

/-- The OPND of form B: DATA with zero reserved bits (R62). -/
def byteOpnd (data : Byte) : BitVec 24 := data.setWidth 24

/-- The OPND of form L: n & 0xFFFFFF (R70). -/
def lengthOpnd (n : Int) : BitVec 24 := BitVec.ofInt 24 n

end Sys2Proof.Machine
end

