-- ==== Sys2Proof/Syntax.lean ====
section
/-! DEFINITION. The commands: one constructor per row of spec/opcode_table.json (spec/30_encoding.md R64). -/

namespace Sys2Proof

/-- The six commands of R64 with their decoded operands (R61 to R63). -/
inductive Instr where
  /-- KEYB (OPC 0x01, form B): append one key byte (R140). -/
  | keyb (data : Byte)
  /-- IVB (OPC 0x02, form B): append one IV byte (R141). -/
  | ivb (data : Byte)
  /-- INIT (OPC 0x03, form N): initialise the registers and start the warm-up (R142). -/
  | init
  /-- GEN (OPC 0x04, form L): generate n keystream bytes, n signed (R161). -/
  | gen (n : Int)
  /-- XORB (OPC 0x05, form B): XOR one data byte with the next keystream byte (R162). -/
  | xorb (data : Byte)
  /-- STAT (OPC 0x06, form N): read STATUS (R180). -/
  | stat
  deriving DecidableEq, Repr

end Sys2Proof
end

