-- ==== Sys2Proof/Config.lean ====
section
/-! DEFINITION. What is fixed for the machine: the constants of spec/00_scope.md R5 and spec/10_state.md R26, and the one choice the spec leaves open (the warm-up schedule, spec/20_memory.md R52). -/

namespace Sys2Proof

/-- WARMUP_STEPS = 4 × 288 (R5, R110). -/
abbrev Config.warmupSteps : Nat := 1152

/-- STEPS_PER_BYTE (R5). -/
abbrev Config.stepsPerByte : Nat := 8

/-- MASK_A = 2^93 − 1, in the hexadecimal digits of R26. -/
def Config.maskA : Nat := 0x1FFFFFFFFFFFFFFFFFFFFFFF

/-- MASK_B = 2^84 − 1, in the hexadecimal digits of R26. -/
def Config.maskB : Nat := 0xFFFFFFFFFFFFFFFFFFFFF

/-- MASK_C = 2^111 − 1, in the hexadecimal digits of R26. -/
def Config.maskC : Nat := 0x7FFFFFFFFFFFFFFFFFFFFFFFFFFF

/-- The largest length a GEN word carries, 2^23 − 1 (R6, R63). -/
abbrev Config.maxLength : Int := 8388607

/-- The smallest length a GEN word carries, −2^23 (R6, R63). -/
abbrev Config.minLength : Int := -8388608

/-- The payload of INVALID_ARGUMENT: the 11 ASCII bytes of `lengthBytes` (R69). -/
def Config.lengthBytesName : List Byte :=
  [0x6C, 0x65, 0x6E, 0x67, 0x74, 0x68, 0x42, 0x79, 0x74, 0x65, 0x73]

/-- FREE VALUE (log entry 2; DESIGN CHOICE, safe). R52 fixes no schedule between the warm-up engine and a head
command that is not held. Where State.schedule names no turn, the n-th such choice is this constant at n: true means
that a warm-up step comes first. It has no body, so no proof knows a value of it. -/
opaque Config.warmupFirst : Nat → Bool

end Sys2Proof
end

