-- ==== Sys2Proof/WellFormed.lean ====
section
/-! DEFINITION. Which commands a word can carry: the length of GEN fits 24 bits (spec/30_encoding.md R63). Every other operand fits by its type. -/

namespace Sys2Proof

/-- A command that some word encodes: n of GEN ranges over −8388608 to 8388607 (R63, R70). -/
def Instr.wellFormed : Instr → Bool
  | .keyb _ => true
  | .ivb _ => true
  | .init => true
  | .gen n => decide (Config.minLength ≤ n) && decide (n ≤ Config.maxLength)
  | .xorb _ => true
  | .stat => true

end Sys2Proof
end

