-- ==== Sys2Proof/Decode.lean ====
section
/-! DEFINITION. The total decoder (spec/30_encoding.md R67), the encoder (R64, R70), the match and mask of every row of the opcode map (R64), and the host's view of the decoder. -/

namespace Sys2Proof

/-- Why a word is Illegal (R65). The block's response is the same for both (R200). -/
inductive IllegalReason where
  /-- An OPC of 0x00 or of 0x07 to 0xFF. -/
  | undefinedOpcode
  /-- A legal OPC whose reserved operand bits are not all zero. -/
  | reservedBits
  deriving DecidableEq, Repr

/-- What a word decodes to: a command, or Illegal by name (R67). -/
inductive Decoded where
  | command (i : Instr)
  | illegal (why : IllegalReason)
  deriving DecidableEq, Repr

/-- A word of form B: `make` of its data byte, Illegal if a reserved bit is set (R62). -/
def decodeByte (make : Byte → Instr) (w : CmdWord) : Decoded :=
  if Machine.reservedField w = 0#16 then .command (make (Machine.dataField w)) else .illegal .reservedBits

/-- A word of form N: the command, Illegal if OPND is not 0 (R61). -/
def decodeNone (i : Instr) (w : CmdWord) : Decoded :=
  if Machine.opndField w = 0#24 then .command i else .illegal .reservedBits

/-- R67: decoding is total and depends on nothing but the word. -/
def decode (w : CmdWord) : Decoded :=
  if Machine.opcField w = 0x01#8 then decodeByte .keyb w
  else if Machine.opcField w = 0x02#8 then decodeByte .ivb w
  else if Machine.opcField w = 0x03#8 then decodeNone .init w
  else if Machine.opcField w = 0x04#8 then .command (.gen (Machine.lengthField w))
  else if Machine.opcField w = 0x05#8 then decodeByte .xorb w
  else if Machine.opcField w = 0x06#8 then decodeNone .stat w
  else .illegal .undefinedOpcode

/-- The word of a command, as the assembler writes it (R70). For GEN the operand is n & 0xFFFFFF, so only a
well-formed length comes back (log entry 14). -/
def encode : Instr → CmdWord
  | .keyb data => Machine.packWord 0x01#8 (Machine.byteOpnd data)
  | .ivb data => Machine.packWord 0x02#8 (Machine.byteOpnd data)
  | .init => Machine.packWord 0x03#8 0#24
  | .gen n => Machine.packWord 0x04#8 (Machine.lengthOpnd n)
  | .xorb data => Machine.packWord 0x05#8 (Machine.byteOpnd data)
  | .stat => Machine.packWord 0x06#8 0#24

/-- The match column of R64 for the row of a command. -/
def rowMatch : Instr → CmdWord
  | .keyb _ => 0x01000000#32
  | .ivb _ => 0x02000000#32
  | .init => 0x03000000#32
  | .gen _ => 0x04000000#32
  | .xorb _ => 0x05000000#32
  | .stat => 0x06000000#32

/-- The mask column of R64 for the row of a command. -/
def rowMask : Instr → CmdWord
  | .keyb _ => 0xFFFFFF00#32
  | .ivb _ => 0xFFFFFF00#32
  | .init => 0xFFFFFFFF#32
  | .gen _ => 0xFF000000#32
  | .xorb _ => 0xFFFFFF00#32
  | .stat => 0xFFFFFFFF#32

/-- A command word from the host's numbering of its bits (bit 0 the least significant bit of the one word); the bits
above `nbits` are 0. A command is one word and the block gives it no byte order (R45), so nothing is laid out. -/
def tableWord (nbits w : Nat) : CmdWord := BitVec.ofNat 32 (w % 2 ^ nbits)

/-- The command the decoder reads from the word `w`; none where the word is Illegal. -/
def decodeTableWord (nbits w : Nat) : Option Instr :=
  match decode (tableWord nbits w) with
  | .command i => some i
  | .illegal _ => none

end Sys2Proof
end

