-- ==== Sys2Proof/Machine/State.lean ====
section
/-! DEFINITION. The state as plain data: the record of spec/10_state.md R20, the environment and the parameter the step reads (R38, log entries 1 to 3), the reset values (R36), and the reasons a step can stop (spec/60_exceptions.md R214). -/

namespace Sys2Proof.Machine

/-- The Cipher State (A, B, C); bit k of a register is X[k], index 0 the newest bit (R20 to R24). A BitVec of the
register's width cannot hold a value above its mask (R26). -/
structure Cipher where
  /-- Register A, 93 bits (R21). -/
  a : BitVec 93
  /-- Register B, 84 bits (R22). -/
  b : BitVec 84
  /-- Register C, 111 bits (R23). -/
  c : BitVec 111
  deriving DecidableEq, Repr

/-- A = B = C = 0, the reset value (R36). -/
def Cipher.zero : Cipher := { a := 0#93, b := 0#84, c := 0#111 }

/-- PHASE, a 2-bit field, by the names of its values (R27, log entry 8). -/
inductive Phase where
  /-- 0: no session. -/
  | idle
  /-- 1: INIT has loaded the registers and the warm-up engine is running. -/
  | warmup
  /-- 2: the keystream may be drawn. -/
  | ready
  /-- 3: never written; a model that meets it faults (R214). -/
  | reserved
  deriving DecidableEq, Repr

/-- The four response codes that occur (R68, R200); 0x04 to 0xFF are never produced (K6). -/
inductive Code where
  /-- 0x00: the command was performed. -/
  | ok
  /-- 0x01: the word decodes to Illegal. -/
  | illegalCommand
  /-- 0x02: GEN with n < 0. -/
  | invalidArgument
  /-- 0x03: GEN or XORB in IDLE. -/
  | notInitialized
  deriving DecidableEq, Repr

/-- RESP = (CODE, PAYLOAD), the one response of a consumed command (R68). -/
structure Response where
  code : Code
  payload : List Byte
  deriving DecidableEq, Repr

/-- Whose move comes next: the environment's choice, which the spec leaves open (R52, log entry 2). -/
inductive Turn where
  /-- The command port performs the head command, if it is not held. -/
  | command
  /-- The warm-up engine takes a step, if PHASE = WARMUP (R143). -/
  | warmup
  /-- The host consumes the oldest response it has not consumed (R192). -/
  | take
  /-- The reset input is asserted (R230). -/
  | reset
  deriving DecidableEq, Repr

/-- Everything a step reads and writes. The first nine entries are the record of R20; the others are the environment
and the parameter RespCap of R38 and R6, held here because a step is a function of the state. -/
structure State where
  /-- A, B and C (R21 to R23). -/
  cipher : Cipher
  /-- PHASE (R27). -/
  phase : Phase
  /-- WCNT, 11 bits, 0 to 1152 (R28). -/
  wcnt : BitVec 11
  /-- KEYBUF, 10 bytes (R29). -/
  keybuf : TenBytes
  /-- KEYCNT, 4 bits, 0 to 10 (R29). -/
  keycnt : BitVec 4
  /-- IVBUF, 10 bytes (R30). -/
  ivbuf : TenBytes
  /-- IVCNT, 4 bits, 0 to 10 (R30). -/
  ivcnt : BitVec 4
  /-- The command words presented and not yet consumed, oldest first; the head may be held (R35, R37). -/
  commands : List CmdWord
  /-- Every response delivered, oldest first: the observation (R38, R68). -/
  responses : List Response
  /-- How many of `responses` the host has consumed (R192). -/
  taken : Nat
  /-- RespCap: how many delivered responses the channel holds unconsumed; none is unbounded (R6, D23). No step writes it.
  The spec gives no least capacity, and 0 is admitted (log entry 20, DESIGN CHOICE). -/
  respCap : Option Nat
  /-- The turns the environment has fixed, next first (R52, log entry 2). -/
  schedule : List Turn
  /-- The model's own counter: how many free choices have been drawn (log entry 2). -/
  tick : Nat
  deriving DecidableEq, Repr

/-- The block right after reset (R36), with an empty environment (log entries 3 and 13). -/
def State.reset : State :=
  { cipher := Cipher.zero
    phase := .idle
    wcnt := 0#11
    keybuf := TenBytes.zero
    keycnt := 0#4
    ivbuf := TenBytes.zero
    ivcnt := 0#4
    commands := []
    responses := []
    taken := 0
    respCap := none
    schedule := []
    tick := 0 }

/-- The model faults of R214, all in states no run reaches (R31). Every command and every turn, a reset too, raises them
before it does anything. They are SAFE: the model stops. -/
inductive Fault where
  /-- PHASE = 3 (R27, K4). -/
  | reservedPhase
  /-- WCNT > 1152 (R28, K5). -/
  | wcntOutOfRange
  /-- KEYCNT > 10 (R29, K5). -/
  | keycntOutOfRange
  /-- IVCNT > 10 (R30, K5). -/
  | ivcntOutOfRange
  deriving DecidableEq, Repr

/-- What the model gives no meaning. Nothing is refused: every command of the table has its meaning, and a word that
decodes to Illegal is performed (R214). -/
inductive Refusal where
  /-- An arm of exec that has no meaning yet raises it (none does now). SAFE: the model stops. -/
  | notModelled (mnemonic : String)
  deriving DecidableEq, Repr

/-- A step's outcome on this machine. -/
abbrev Result := Host.Outcome State Fault Refusal

end Sys2Proof.Machine
end

