-- ==== Sys2Proof/Machine/Cipher.lean ====
section
/-! DEFINITION. The functional level: the pure functions of spec/40_core_functions.md in the spec's order (R100 to R114), the integer twin (R106 to R108) and NextByte (spec/42_keystream_commands.md R160). -/

namespace Sys2Proof.Machine

/-- Normalize (R100): the first ten bytes, zero bytes at the indices from len to 9. -/
def normalizeBuf (buf : List Byte) : TenBytes := Vector.ofFn fun i : Fin 10 => buf.getD i.val 0#8

/-- Bit (R101): bit index i is bit (i & 7) of byte (i >> 3); an index beyond the buffer gives 0. -/
def bitOf (buf : List Byte) (i : Nat) : Bool :=
  if i >>> 3 ≥ buf.length then false else (buf.getD (i >>> 3) 0#8).getLsbD (i &&& 7)

/-- The w-bit register whose bit k is `f k` (R8). -/
def ofBits : (w : Nat) → (Nat → Bool) → BitVec w
  | 0, _ => 0#0
  | w + 1, f => BitVec.cons (f w) (ofBits w f)

/-- Init (R102): the key in A[0..79], the IV in B[0..79], ones in C[108..110], zeros elsewhere. -/
def cipherInit (key iv : TenBytes) : Cipher :=
  { a := ofBits 93 fun k => if k < 80 then bitOf key.toList k else false
    b := ofBits 84 fun k => if k < 80 then bitOf iv.toList k else false
    c := ofBits 111 fun k => decide (108 ≤ k) }

/-- Step (R103): every value is computed from the registers before the step (R104); each register shifts toward higher
indices, drops its top bit and takes the other register's feedback at index 0. -/
def Cipher.step (s : Cipher) : Cipher × Bool :=
  let t1 := s.a[65] ^^ s.a[92]
  let t2 := s.b[68] ^^ s.b[83]
  let t3 := s.c[65] ^^ s.c[110]
  let z := t1 ^^ t2 ^^ t3
  let t1' := t1 ^^ (s.a[90] && s.a[91]) ^^ s.b[77]
  let t2' := t2 ^^ (s.b[81] && s.b[82]) ^^ s.c[86]
  let t3' := t3 ^^ (s.c[108] && s.c[109]) ^^ s.a[68]
  ({ a := s.a.shiftConcat t3', b := s.b.shiftConcat t1', c := s.c.shiftConcat t2' }, z)

/-- Step^n, keeping only the state (R110). -/
def Cipher.steps : Nat → Cipher → Cipher
  | 0, s => s
  | n + 1, s => Cipher.steps n s.step.1

/-- WarmUp (R110): 1152 steps, every output bit discarded. -/
def Cipher.warmUp (s : Cipher) : Cipher := s.steps Config.warmupSteps

/-- The keystream bit z_m drawn from `s` (R111): the output of the (m+1)-th step. -/
def Cipher.keyBit (s : Cipher) (m : Nat) : Bool := (s.steps m).step.2

/-- `b` as a byte, shifted to bit j (R112). -/
def bitAt (b : Bool) (j : Nat) : Byte := (BitVec.ofBool b).setWidth 8 <<< j

/-- KSByte(i) of the keystream that starts at `s` (R112): bit j is z_{8i+j}. -/
def Cipher.ksByte (s : Cipher) (i : Nat) : Byte :=
  (List.range Config.stepsPerByte).foldl (fun byte j => byte ||| bitAt (s.keyBit (8 * i + j)) j) 0#8

/-- The loop of NextByte (R160): `k` more steps, the next output going to bit `j`. -/
def Cipher.byteLoop : Nat → Nat → Byte → Cipher → Byte × Cipher
  | 0, _, byte, s => (byte, s)
  | k + 1, j, byte, s => Cipher.byteLoop k (j + 1) (byte ||| bitAt s.step.2 j) s.step.1

/-- NextByte (R160): 8 steps, their outputs packed LSB-first. -/
def Cipher.nextByte (s : Cipher) : Byte × Cipher := Cipher.byteLoop Config.stepsPerByte 0 0#8 s

/-- `n` times NextByte: the bytes in order, and the registers after them (R113, R161). -/
def Cipher.draw : Nat → Cipher → List Byte × Cipher
  | 0, s => ([], s)
  | n + 1, s => (s.nextByte.1 :: (Cipher.draw n s.nextByte.2).1, (Cipher.draw n s.nextByte.2).2)

/-- S_0 (R111, R145): the state after warm-up for a key and IV of any length. -/
def keystreamStart (key iv : List Byte) : Cipher := (cipherInit (normalizeBuf key) (normalizeBuf iv)).warmUp

/-- What generateKeystream answers: bytes, or its one error with the offending parameter's name (R113). -/
inductive KeystreamResult where
  | bytes (out : List Byte)
  | invalidArgument (parameter : List Byte)
  deriving DecidableEq, Repr

/-- Keystream (R113): InvalidArgument("lengthBytes") for n < 0, else n bytes. -/
def keystream (key iv : List Byte) (n : Int) : KeystreamResult :=
  if n < 0 then .invalidArgument Config.lengthBytesName
  else .bytes ((keystreamStart key iv).draw n.toNat).1

/-- XorTransform (R114): the data XORed bytewise with as many keystream bytes; it raises nothing. -/
def xorTransform (key iv data : List Byte) : List Byte :=
  List.zipWith (· ^^^ ·) data ((keystreamStart key iv).draw data.length).1

/-- The registers as integers: the Alternate Register Representation (R8, R106 to R108). -/
structure Twin where
  a : Nat
  b : Nat
  c : Nat
  deriving DecidableEq, Repr

/-- int(A), int(B), int(C) (R8). -/
def Cipher.int (s : Cipher) : Twin := { a := s.a.toNat, b := s.b.toNat, c := s.c.toNat }

/-- Σ buf[j]·2^(8j), the little-endian value of a byte sequence (R41, R106). -/
def littleEndian : List Byte → Nat
  | [] => 0
  | x :: rest => x.toNat + 2 ^ 8 * littleEndian rest

/-- TwinInit (R106). -/
def twinInit (key iv : TenBytes) : Twin :=
  { a := littleEndian key.toList, b := littleEndian iv.toList, c := 7 * 2 ^ 108 }

/-- bit(r, k) = (r >> k) & 1 (R107). -/
def twinBit (r k : Nat) : Nat := (r >>> k) &&& 1

/-- TwinStep (R108), with the shift grouped as ((r << 1) & MASK) | newBit (spec/90_conflicts.md C4). -/
def twinStep (s : Twin) : Twin × Nat :=
  let t1 := twinBit s.a 65 ^^^ twinBit s.a 92
  let t2 := twinBit s.b 68 ^^^ twinBit s.b 83
  let t3 := twinBit s.c 65 ^^^ twinBit s.c 110
  let z := t1 ^^^ t2 ^^^ t3
  let t1' := t1 ^^^ (twinBit s.a 90 &&& twinBit s.a 91) ^^^ twinBit s.b 77
  let t2' := t2 ^^^ (twinBit s.b 81 &&& twinBit s.b 82) ^^^ twinBit s.c 86
  let t3' := t3 ^^^ (twinBit s.c 108 &&& twinBit s.c 109) ^^^ twinBit s.a 68
  ({ a := ((s.a <<< 1) &&& Config.maskA) ||| t3'
     b := ((s.b <<< 1) &&& Config.maskB) ||| t1'
     c := ((s.c <<< 1) &&& Config.maskC) ||| t2' }, z)

end Sys2Proof.Machine
end

