-- ==== Sys2Proof/Machine/Flags.lean ====
section
/-! DEFINITION. STATUS, the block's only status (spec/10_state.md R32, R34: it has no flags), and the bits of PHASE and CODE. -/

namespace Sys2Proof.Machine

/-- The 2-bit value of PHASE (R27). -/
def Phase.bits : Phase → BitVec 2
  | .idle => 0#2
  | .warmup => 1#2
  | .ready => 2#2
  | .reserved => 3#2

/-- The 8-bit value of CODE (R68). -/
def Code.bits : Code → BitVec 8
  | .ok => 0x00#8
  | .illegalCommand => 0x01#8
  | .invalidArgument => 0x02#8
  | .notInitialized => 0x03#8

/-- STATUS = PHASE | (KEYCNT << 2) | (IVCNT << 6) | (WCNT << 10) (R32). -/
def State.status (s : State) : BitVec 32 :=
  s.phase.bits.setWidth 32 ||| (s.keycnt.setWidth 32 <<< 2) ||| (s.ivcnt.setWidth 32 <<< 6)
    ||| (s.wcnt.setWidth 32 <<< 10)

/-- STATUS as 4 bytes, least significant first: byte k is STATUS[8k+7:8k] (R44). -/
def State.statusBytes (s : State) : List Byte :=
  [s.status.extractLsb' 0 8, s.status.extractLsb' 8 8, s.status.extractLsb' 16 8, s.status.extractLsb' 24 8]

end Sys2Proof.Machine
end

