-- ==== Sys2Proof/Machine/Ops.lean ====
section
/-! DEFINITION. The named operations every meaning is written over: the model faults, back-pressure, respond, raise and hold (spec/00_scope.md R9), staging, loading a session, the warm-up step, drawing keystream, and reset. -/

namespace Sys2Proof.Machine

/-- The model fault a state calls for, if any (R214, log entry 9). -/
def State.violation (s : State) : Option Fault :=
  if s.phase = .reserved then some .reservedPhase
  else if 1152#11 < s.wcnt then some .wcntOutOfRange
  else if 10#4 < s.keycnt then some .keycntOutOfRange
  else if 10#4 < s.ivcnt then some .ivcntOutOfRange
  else none

/-- Do `k` in a state the spec allows; otherwise the model faults (R214). -/
def guarded (s : State) (k : State → Result) : Result :=
  match s.violation with
  | some f => .fault f
  | none => k s

/-- How many delivered responses the host has not consumed. -/
def State.pending (s : State) : Nat := s.responses.length - s.taken

/-- The response channel has no room for one more response (D23): never when RespCap is unbounded. With RespCap = 0,
which the spec neither allows nor rules out, it is always full and every command is held for ever, although the host
consumes (log entry 20, DESIGN CHOICE). -/
def State.channelFull (s : State) : Bool :=
  match s.respCap with
  | none => false
  | some cap => decide (cap ≤ s.pending)

/-- `hold` (R9, R205): the command is not consumed and nothing changes. -/
def hold (s : State) : Result := .next s

/-- `respond(code, payload)` (R9, R68): one response is delivered and the head command is consumed. -/
def respond (code : Code) (payload : List Byte) (s : State) : State :=
  { s with commands := s.commands.tail, responses := s.responses ++ [⟨code, payload⟩] }

/-- `raise` (R9, R201): the error's response and no other state change. This is the block's whole exception mechanism
(R203): nothing is saved, no mode changes and control goes nowhere, so there is no return (R204). -/
def raise (code : Code) (info : List Byte) (s : State) : Result := .next (respond code info s)

/-- Perform a command: back-pressure holds it while the response channel is full (D23, R192), else `k` runs. -/
def perform (s : State) (k : State → Result) : Result :=
  guarded s fun s => if s.channelFull then hold s else k s

/-- A word that decodes to Illegal, performed (R65, R200). -/
def execIllegal (s : State) : Result := perform s (raise .illegalCommand [])

/-- Store `data` at index `cnt` of a staging buffer while `cnt` is below 10, else drop it (R140, R141). -/
def stageBuf (data : Byte) (buf : TenBytes) (cnt : BitVec 4) : TenBytes :=
  if cnt < 10#4 then buf.setIfInBounds cnt.toNat data else buf

/-- The count after a staged byte: one more while it is below 10 (R140, R141). -/
def stageCnt (cnt : BitVec 4) : BitVec 4 := if cnt < 10#4 then cnt + 1#4 else cnt

/-- INIT's effect on the state (R142). -/
def loadSession (s : State) : State :=
  { s with
    cipher := cipherInit s.keybuf s.ivbuf
    keybuf := TenBytes.zero
    keycnt := 0#4
    ivbuf := TenBytes.zero
    ivcnt := 0#4
    wcnt := 0#11
    phase := .warmup }

/-- WSTEP (R143), and the end of warm-up on the step that raises WCNT to 1152 (R144). -/
def wstep (s : State) : State :=
  { s with
    cipher := s.cipher.step.1
    wcnt := s.wcnt + 1#11
    phase := if s.wcnt + 1#11 = 1152#11 then .ready else s.phase }

/-- The phase checks of GEN and XORB (R161, R162): NOT_INITIALIZED in IDLE, held in WARMUP, `k` in READY. -/
def whenReady (s : State) (k : State → Result) : Result :=
  match s.phase with
  | .idle => raise .notInitialized [] s
  | .warmup => hold s
  | .ready => k s
  | .reserved => .fault .reservedPhase

/-- The reset event (R230): every field of the record takes its value of R36; the command stream stays, delivered
responses are not recalled, and there is no response. -/
def resetBlock (s : State) : State :=
  { s with
    cipher := Cipher.zero
    phase := .idle
    wcnt := 0#11
    keybuf := TenBytes.zero
    keycnt := 0#4
    ivbuf := TenBytes.zero
    ivcnt := 0#4 }

/-- The host consumes the oldest response it has not consumed, if there is one (R192). -/
def takeResponse (s : State) : State :=
  if s.taken < s.responses.length then { s with taken := s.taken + 1 } else s

end Sys2Proof.Machine
end

