-- ==== Sys2Proof/Machine/Keystream.lean ====
section
/-! DEFINITION. GEN and XORB (spec/42_keystream_commands.md R161, R162). -/

namespace Sys2Proof.Machine

/-- GEN (R161), its checks in the order of R202: the length in every phase, then the phase. -/
def execGen (n : Int) (s : State) : Result :=
  perform s fun s =>
    if n < 0 then raise .invalidArgument Config.lengthBytesName s
    else whenReady s fun s =>
      .next (respond .ok (s.cipher.draw n.toNat).1 { s with cipher := (s.cipher.draw n.toNat).2 })

/-- XORB (R162). -/
def execXorb (data : Byte) (s : State) : Result :=
  perform s fun s =>
    whenReady s fun s =>
      .next (respond .ok [data ^^^ s.cipher.nextByte.1] { s with cipher := s.cipher.nextByte.2 })

end Sys2Proof.Machine
end

