-- ==== Sys2Proof/Machine/Load.lean ====
section
/-! DEFINITION. KEYB, IVB and INIT (spec/41_load_commands.md R140 to R142). -/

namespace Sys2Proof.Machine

/-- KEYB (R140): accepted in every phase. -/
def execKeyb (data : Byte) (s : State) : Result :=
  perform s fun s =>
    .next (respond .ok []
      { s with keybuf := stageBuf data s.keybuf s.keycnt, keycnt := stageCnt s.keycnt })

/-- IVB (R141): accepted in every phase. -/
def execIvb (data : Byte) (s : State) : Result :=
  perform s fun s =>
    .next (respond .ok []
      { s with ivbuf := stageBuf data s.ivbuf s.ivcnt, ivcnt := stageCnt s.ivcnt })

/-- INIT (R142): accepted in every phase; it never reads A, B or C. -/
def execInit (s : State) : Result :=
  perform s fun s => .next (respond .ok [] (loadSession s))

end Sys2Proof.Machine
end

