-- ==== Sys2Proof/Machine/Status.lean ====
section
/-! DEFINITION. STAT (spec/43_status_command.md R180). -/

namespace Sys2Proof.Machine

/-- STAT (R180): accepted in every phase; it writes no state. -/
def execStat (s : State) : Result :=
  perform s fun s => .next (respond .ok s.statusBytes s)

end Sys2Proof.Machine
end

