-- ==== Sys2Proof/Machine/Dispatch.lean ====
section
/-! DEFINITION. The meaning of each command of the opcode table (spec/30_encoding.md R64): one arm per constructor of Instr. -/

namespace Sys2Proof.Machine

def exec (i : Instr) (s : State) : Host.Outcome State Fault Refusal :=
  match i with
  | .keyb data => Sys2Proof.Machine.execKeyb data s
  | .ivb data => Sys2Proof.Machine.execIvb data s
  | .init => Sys2Proof.Machine.execInit s
  | .gen n => Sys2Proof.Machine.execGen n s
  | .xorb data => Sys2Proof.Machine.execXorb data s
  | .stat => Sys2Proof.Machine.execStat s

end Sys2Proof.Machine
end

