-- ==== Sys2Proof/Machine/Schedule.lean ====
section
/-! DEFINITION. The agents and whose move comes next (spec/20_memory.md R51, R52, log entries 2, 5 and 6). -/

namespace Sys2Proof.Machine

/-- The command waits for READY while PHASE = WARMUP: GEN with n ≥ 0, and XORB (R205). -/
def waitsForReady : Decoded → Bool
  | .command (.gen n) => decide (0 ≤ n)
  | .command (.xorb _) => true
  | .command (.keyb _) => false
  | .command (.ivb _) => false
  | .command .init => false
  | .command .stat => false
  | .illegal _ => false

/-- The word `w` at the head of the command stream is held: by the warm-up, or by a full response channel (R205). -/
def State.holds (s : State) (w : CmdWord) : Bool :=
  s.channelFull || (decide (s.phase = .warmup) && waitsForReady (decode w))

/-- There is a head command and it is not held. -/
def State.headCanMove (s : State) : Bool :=
  match s.commands with
  | [] => false
  | w :: _ => !s.holds w

/-- The command port's move: perform the head command, which a hold leaves as it was; with no command, nothing (R51). -/
def commandTurn (s : State) : Result :=
  match s.commands with
  | [] => guarded s .next
  | w :: _ =>
    match decode w with
    | .command i => exec i s
    | .illegal _ => execIllegal s

/-- The warm-up engine's move: WSTEP, enabled iff PHASE = WARMUP (R143). -/
def warmupTurn (s : State) : Result :=
  guarded s fun s => if s.phase = .warmup then .next (wstep s) else .next s

/-- The move of the agent whose turn it is. An agent with no enabled transition leaves the state as it is. Every move,
a reset too, faults in a state of R214 (log entry 9). -/
def runTurn (t : Turn) (s : State) : Result :=
  match t with
  | .command => commandTurn s
  | .warmup => warmupTurn s
  | .take => guarded s fun s => .next (takeResponse s)
  | .reset => guarded s fun s => .next (resetBlock s)

/-- One event of the machine. A turn the environment has fixed is taken as it stands. Where none is fixed, the
warm-up engine moves if the head command cannot, the command port moves outside WARMUP, and between a warm-up step and
a command that is not held the free value decides (R52). -/
def advance (s : State) : Result :=
  match s.schedule with
  | t :: rest => runTurn t { s with schedule := rest }
  | [] =>
    if s.phase = .warmup then
      if s.headCanMove then
        runTurn (if Config.warmupFirst s.tick then .warmup else .command) { s with tick := s.tick + 1 }
      else runTurn .warmup s
    else runTurn .command s

end Sys2Proof.Machine
end

