-- ==== Sys2Proof/Machine/Step.lean ====
section
/-! DEFINITION. One step of the machine, and the host's way to place the next command. -/

namespace Sys2Proof.Machine

/-- One event: a command, a warm-up step, the host's or the reset input's move, or nothing where no agent can move. -/
def step (s : State) : Host.Outcome State Fault Refusal := Sys2Proof.Machine.advance s

/-- The word `w` presented at the head of the command stream, with the next turn given to the command port, so that
the very next step performs it (log entry 12). -/
def State.withFetchWord (s : State) (nbits w : Nat) : State :=
  { s with commands := Sys2Proof.tableWord nbits w :: s.commands, schedule := .command :: s.schedule }

end Sys2Proof.Machine
end

