-- ==== Sys2Proof/Machine/HostOps.lean ====
section
/-! DEFINITION. The assembler's pseudo-instructions (spec/30_encoding.md R70, R71) and the host transactions as lists of words and the reading of their responses (spec/44_host_operations.md R190, R191). -/

namespace Sys2Proof.Machine

/-- A line of the assembler's source (R70, R71). -/
inductive AsmLine where
  /-- A command of R70. -/
  | instr (i : Instr)
  /-- `.word imm32`, verbatim. -/
  | word (w : CmdWord)
  /-- `KEY b0, ..., bm-1`. -/
  | key (bytes : List Byte)
  /-- `IV b0, ..., bm-1`. -/
  | iv (bytes : List Byte)
  /-- `XORS d0, ..., dm-1`. -/
  | xors (bytes : List Byte)
  /-- `GENL n`, n ≥ 0 of any size. -/
  | genl (n : Nat)
  deriving DecidableEq, Repr

/-- `GENL n` is `GEN 8388607` q times and then `GEN r`, n = 8388607·q + r (R71). -/
def expandGenl (n : Nat) : List Instr :=
  List.replicate (n / 8388607) (.gen 8388607) ++ [.gen (n % 8388607 : Nat)]

/-- The words of a line (R70, R71). -/
def assembleLine : AsmLine → List CmdWord
  | .instr i => [encode i]
  | .word w => [w]
  | .key bytes => bytes.map fun b => encode (.keyb b)
  | .iv bytes => bytes.map fun b => encode (.ivb b)
  | .xors bytes => bytes.map fun b => encode (.xorb b)
  | .genl n => (expandGenl n).map encode

/-- The words of a program (R70). -/
def assemble (lines : List AsmLine) : List CmdWord := lines.flatMap assembleLine

/-- The lines that load a session: the key, the IV, INIT (R190, R191). -/
def sessionLines (key iv : List Byte) : List AsmLine := [.key key, .iv iv, .instr .init]

/-- The last line of HostGenerate: GEN, its length clamped from below, or GENL above GEN's range (R190). -/
def generateLine (n : Int) : AsmLine :=
  if n < 0 then .instr (.gen (max n Config.minLength))
  else if n ≤ Config.maxLength then .instr (.gen n)
  else .genl n.toNat

/-- The words HostGenerate issues (R190). -/
def hostGenerateWords (key iv : List Byte) (n : Int) : List CmdWord :=
  assemble (sessionLines key iv ++ [generateLine n])

/-- The words HostXor issues (R191). -/
def hostXorWords (key iv data : List Byte) : List CmdWord :=
  assemble (sessionLines key iv ++ [.xors data])

/-- The result of HostGenerate, read from the responses to its GEN commands: the concatenated payloads, or the error
and the parameter's name where a GEN answers INVALID_ARGUMENT (R190). R190 gives no result where a GEN answers anything
else than OK or INVALID_ARGUMENT, as NOT_INITIALIZED after a reset in the middle of the transaction, nor for no response
at all: the payloads, empty there, are then read as bytes (log entry 19, DESIGN CHOICE). -/
def generateResult : List Response → KeystreamResult
  | [] => .bytes []
  | r :: rest =>
    if r.code = .invalidArgument then .invalidArgument r.payload
    else .bytes ((r :: rest).flatMap Response.payload)

/-- The result of HostXor: the payloads of the XORB responses, concatenated (R191). R191 speaks of one-byte payloads; a
response with an empty one, as NOT_INITIALIZED after a reset, adds nothing (log entry 19, DESIGN CHOICE). -/
def xorResult (rs : List Response) : List Byte := rs.flatMap Response.payload

/-- The state with a host's words presented on the command port (R192). -/
def State.present (s : State) (ws : List CmdWord) : State := { s with commands := s.commands ++ ws }

end Sys2Proof.Machine
end

