-- ==== Sys2Proof/Safety.lean ====
section
/-! DEFINITION. What holds of every reachable state (spec/10_state.md R29 to R31), the end of a run (spec/44_host_operations.md R196), and the words the statements about steps and command sequences are made of. -/

namespace Sys2Proof.Machine

/-- R31, by phase: WCNT and, in IDLE, the registers. -/
def State.PhaseInv (s : State) : Prop :=
  match s.phase with
  | .idle => s.wcnt = 0#11 ∧ s.cipher = Cipher.zero
  | .warmup => s.wcnt.toNat ≤ 1151
  | .ready => s.wcnt = 1152#11
  | .reserved => False

/-- R29 and R30: the count is at most 10 and the bytes from the count on are zero. -/
def StagingInv (buf : TenBytes) (cnt : BitVec 4) : Prop :=
  cnt.toNat ≤ 10 ∧ ∀ i : Fin 10, cnt.toNat ≤ i.val → buf[i] = 0#8

/-- The host has consumed no more than was delivered, and a bounded channel is not over its capacity (D23). -/
def State.ChannelInv (s : State) : Prop :=
  s.taken ≤ s.responses.length ∧ ∀ cap, s.respCap = some cap → s.pending ≤ cap

/-- The invariant of every reachable state. -/
def State.Inv (s : State) : Prop :=
  s.PhaseInv ∧ StagingInv s.keybuf s.keycnt ∧ StagingInv s.ivbuf s.ivcnt ∧ s.ChannelInv

/-- The run has ended (R196): every command is performed and the warm-up engine has no enabled step. -/
def State.finished (s : State) : Prop := s.commands = [] ∧ s.phase ≠ .warmup

/-- A state in which a command can be performed at once: no model fault (R214) and room for its response (D23). -/
abbrev State.accepting (s : State) : Prop := s.violation = none ∧ s.channelFull = false

/-- `s` with the next turn given to `turn` (R52): every state whose schedule names a turn has this form. -/
def State.giveTurn (s : State) (turn : Turn) : State := { s with schedule := turn :: s.schedule }

/-- `s` with a word at the head of its command stream (R37). -/
def State.withHead (s : State) (w : CmdWord) : State := { s with commands := w :: s.commands }

/-- Between `s` and `t` the head command was performed, and it was `i` (R51). -/
def Performed (i : Instr) (s t : State) : Prop :=
  ∃ w, s.commands = w :: t.commands ∧ decode w = .command i

/-- The commands `is`, performed one after the other (R51). -/
def execAll : List Instr → State → Result
  | [], s => .next s
  | i :: is, s =>
    match exec i s with
    | .next t => execAll is t
    | .fault f => .fault f
    | .refused r => .refused r

/-- The data bytes of the KEYB commands of a sequence, in arrival order (R145). -/
def keyBytes : List Instr → List Byte
  | [] => []
  | .keyb data :: is => data :: keyBytes is
  | _ :: is => keyBytes is

/-- The data bytes of the IVB commands of a sequence, in arrival order (R145). -/
def ivBytes : List Instr → List Byte
  | [] => []
  | .ivb data :: is => data :: ivBytes is
  | _ :: is => ivBytes is

/-- The staging buffers hold nothing (R190). -/
def State.stagingEmpty (s : State) : Prop :=
  s.keybuf = TenBytes.zero ∧ s.keycnt = 0#4 ∧ s.ivbuf = TenBytes.zero ∧ s.ivcnt = 0#4

/-- The host drops nothing and keeps reset low: no reset is scheduled and the response channel is unbounded (R192, D23). -/
def State.quiet (s : State) : Prop := Turn.reset ∉ s.schedule ∧ s.respCap = none

end Sys2Proof.Machine
end

