-- ==== Sys2Proof/Certificates/Slice0/Obligations.lean ====
section
/-! DEFINITION. The statements for the provers. Each docstring names the rule of spec/ it formalises, or says that it is derived and from what. -/

open Sys2Proof Sys2Proof.Machine

/-! ## Encoding -/

/-- Derived from the maps of R64 and R70: no operand bit is dropped on the way to a word and back. -/
def Obligations.DecodeOfEncodeGivesTheCommand : Prop :=
  ∀ i : Instr, i.wellFormed = true → decode (encode i) = .command i

/-- Derived from R64, R67 and R70: a legal word has exactly one command, and the assembler writes that word for it. -/
def Obligations.EncodeOfDecodeGivesTheWord : Prop :=
  ∀ (w : CmdWord) (i : Instr), decode w = .command i → i.wellFormed = true ∧ encode i = w

/-- R64: each row of the opcode map selects its words by mask and match, a word no row selects is illegal, and at most
one row selects a word. -/
def Obligations.OpcodeMapSelectsByMaskAndMatch : Prop :=
  ∀ w : CmdWord,
    (w &&& 0xFFFFFF00#32 = 0x01000000#32 → decode w = .command (.keyb (w.extractLsb' 0 8))) ∧
    (w &&& 0xFFFFFF00#32 = 0x02000000#32 → decode w = .command (.ivb (w.extractLsb' 0 8))) ∧
    (w &&& 0xFFFFFFFF#32 = 0x03000000#32 → decode w = .command .init) ∧
    (w &&& 0xFF000000#32 = 0x04000000#32 → decode w = .command (.gen (w.extractLsb' 0 24).toInt)) ∧
    (w &&& 0xFFFFFF00#32 = 0x05000000#32 → decode w = .command (.xorb (w.extractLsb' 0 8))) ∧
    (w &&& 0xFFFFFFFF#32 = 0x06000000#32 → decode w = .command .stat) ∧
    ((∀ i, w &&& rowMask i ≠ rowMatch i) → ∃ why, decode w = .illegal why) ∧
    (∀ i j, w &&& rowMask i = rowMatch i → w &&& rowMask j = rowMatch j → rowMatch i = rowMatch j)

/-- R65 and R61: exactly the words with an undefined OPC or a non-zero reserved operand bit are illegal, and an illegal
word at the head of the stream is performed: one response with code 0x01 and an empty payload, nothing else. -/
def Obligations.IllegalWordsGetTheirResponse : Prop :=
  (∀ w : CmdWord, (∃ why, decode w = .illegal why) ↔
    (w.extractLsb' 24 8 = 0x00#8 ∨ 0x07 ≤ (w.extractLsb' 24 8).toNat ∨
      ((w.extractLsb' 24 8 = 0x01#8 ∨ w.extractLsb' 24 8 = 0x02#8 ∨ w.extractLsb' 24 8 = 0x05#8) ∧
        w.extractLsb' 8 16 ≠ 0#16) ∨
      ((w.extractLsb' 24 8 = 0x03#8 ∨ w.extractLsb' 24 8 = 0x06#8) ∧ w.extractLsb' 0 24 ≠ 0#24))) ∧
  (∀ (w : CmdWord) (why : IllegalReason) (s : State), decode w = .illegal why → s.accepting →
    step ((s.withHead w).giveTurn .command) =
      .next { s with responses := s.responses ++ [⟨.illegalCommand, []⟩] }) ∧
  Code.illegalCommand.bits = 0x01#8

/-- R63: the length of GEN is CMD[23:0] as a two's-complement number, every field value is legal, n has the range of 24
bits, and a negative n is no encoding error: performed in any phase, it gets INVALID_ARGUMENT. -/
def Obligations.GenLengthIsSigned24Bits : Prop :=
  ∀ w : CmdWord, w.extractLsb' 24 8 = 0x04#8 →
    ∃ n : Int, decode w = .command (.gen n) ∧
      n = ((w.extractLsb' 0 24).toNat : Int) - (if w.getLsbD 23 then 2 ^ 24 else 0) ∧
      -8388608 ≤ n ∧ n ≤ 8388607 ∧
      (n < 0 → ∀ s : State, s.accepting → ∃ t, exec (.gen n) s = .next t ∧
        t.responses = s.responses ++ [⟨.invalidArgument, Config.lengthBytesName⟩])

/-- Words written out from the spec's examples (section 4, marked derived there) decode to the commands they stand for.
A sanity statement. -/
def Obligations.SampleWordsDecode : Prop :=
  decode 0x01000005#32 = .command (.keyb 0x05#8) ∧
  decode 0x020000AA#32 = .command (.ivb 0xAA#8) ∧
  decode 0x03000000#32 = .command .init ∧
  decode 0x047FFFFF#32 = .command (.gen 8388607) ∧
  decode 0x04FFFFFF#32 = .command (.gen (-1)) ∧
  decode 0x04800000#32 = .command (.gen (-8388608)) ∧
  decode 0x05000041#32 = .command (.xorb 0x41#8) ∧
  decode 0x06000000#32 = .command .stat ∧
  decode 0x00000000#32 = .illegal .undefinedOpcode ∧
  decode 0x01000100#32 = .illegal .reservedBits

/-! ## Steps -/

/-- When the head word decodes to a command, a turn of the command port is exec of it. Outside WARMUP the port has the
turn unless the schedule says otherwise; in WARMUP a held head gives it to the warm-up engine, and otherwise the free
value decides. The turn-taking is the model's own choice (log entries 2 and 12). -/
def Obligations.StepRunsTheDecodedCommand : Prop :=
  (∀ (s : State) (w : CmdWord) (cs : List CmdWord) (i : Instr), s.commands = w :: cs → decode w = .command i →
    step (s.giveTurn .command) = exec i s ∧
    (s.schedule = [] → s.phase ≠ .warmup → step s = exec i s) ∧
    (s.schedule = [] → s.phase = .warmup → s.holds w = true → step s = runTurn .warmup s) ∧
    (s.schedule = [] → s.phase = .warmup → s.holds w = false →
      step s = if Config.warmupFirst s.tick then runTurn .warmup { s with tick := s.tick + 1 }
        else exec i { s with tick := s.tick + 1 })) ∧
  (∀ (s : State) (nbits w : Nat) (i : Instr), decodeTableWord nbits w = some i →
    step (s.withFetchWord nbits w) = exec i (s.withHead (tableWord nbits w)))

/-- R143: WSTEP is enabled exactly in WARMUP, performs one Step whose output is discarded, adds 1 to WCNT, sets READY
when WCNT becomes 1152, and has no response; elsewhere the warm-up engine does nothing; an INIT during warm-up sets WCNT
back to 0. -/
def Obligations.WarmupStepEffect : Prop :=
  (∀ s : State, s.violation = none → s.phase = .warmup → s.wcnt.toNat ≤ 1151 →
    ∃ t, step (s.giveTurn .warmup) = .next t ∧
      t.cipher = s.cipher.step.1 ∧ t.wcnt.toNat = s.wcnt.toNat + 1 ∧
      t.phase = (if s.wcnt.toNat + 1 = 1152 then .ready else .warmup) ∧
      t = { s with cipher := t.cipher, wcnt := t.wcnt, phase := t.phase }) ∧
  (∀ s : State, s.violation = none → s.phase ≠ .warmup → step (s.giveTurn .warmup) = .next s) ∧
  (∀ s : State, s.accepting → s.phase = .warmup → ∃ t, exec .init s = .next t ∧ t.phase = .warmup ∧ t.wcnt = 0#11)

/-- R144: after an INIT the warm-up engine needs exactly 1152 steps to READY, where WCNT stays; no command but INIT
changes PHASE or WCNT. -/
def Obligations.WarmupTakesExactly1152Steps : Prop :=
  (∀ s : State, s.accepting → ∃ t, exec .init s = .next t ∧
    ∀ k, k ≤ 1152 → ∃ u : State,
      Host.Core.run Sys2Proof.core k { t with schedule := List.replicate k .warmup ++ t.schedule } = .next u ∧
      u.wcnt.toNat = k ∧ u.phase = (if k = 1152 then .ready else .warmup) ∧ u.cipher = t.cipher.steps k ∧
      u = { t with cipher := u.cipher, wcnt := u.wcnt, phase := u.phase }) ∧
  (∀ s : State, s.violation = none → s.phase = .ready → step (s.giveTurn .warmup) = .next s) ∧
  (∀ (i : Instr) (s t : State), i ≠ .init → exec i s = .next t → t.phase = s.phase ∧ t.wcnt = s.wcnt)

/-- R28: WCNT is written only by INIT and reset, which set it to 0, and by the warm-up engine, which adds 1 and stops at
1152; so it never wraps. -/
def Obligations.OnlyInitWarmupAndResetWriteWcnt : Prop :=
  ∀ s t : State, s.Inv → step s = .next t →
    t.wcnt.toNat ≤ 1152 ∧
    (t.wcnt = s.wcnt ∨ (Performed .init s t ∧ t.wcnt = 0#11) ∨
      (s.phase = .warmup ∧ t.wcnt.toNat = s.wcnt.toNat + 1) ∨
      ((∃ rest, s.schedule = .reset :: rest) ∧ t.wcnt = 0#11))

/-- PHASE is written only by INIT (WARMUP), by the warm-up engine (READY) and by reset (IDLE), so only a reset leads
back to IDLE: the inference the spec marks as derived in R231, from the writers R27 lists. -/
def Obligations.OnlyInitWarmupAndResetWritePhase : Prop :=
  ∀ s t : State, step s = .next t → t.phase ≠ s.phase →
    (t.phase = .warmup ∧ Performed .init s t) ∨
    (t.phase = .ready ∧ s.phase = .warmup ∧ t.wcnt = 1152#11) ∨
    (t.phase = .idle ∧ ∃ rest, s.schedule = .reset :: rest)

/-- R51: a step consumes nothing and answers nothing, or consumes exactly the head word and delivers exactly one
response, after all earlier ones. -/
def Obligations.OneResponsePerConsumedCommandInOrder : Prop :=
  ∀ s t : State, step s = .next t →
    (t.commands = s.commands ∧ t.responses = s.responses) ∨
    (∃ w r, s.commands = w :: t.commands ∧ t.responses = s.responses ++ [r])

/-! ## Functional level -/

/-- R103, R104 and R24: the seven values of Step are computed from the registers before it, every bit moves one index
up, the top bit is dropped, and register A takes t3', B takes t1', C takes t2'. That the all-zero state is
a fixed point is the clause R103 marks as derived from itself. -/
def Obligations.StepComputesTapsFeedbackAndShift : Prop :=
  (∀ s : Cipher,
    let t1 := s.a.getLsbD 65 ^^ s.a.getLsbD 92
    let t2 := s.b.getLsbD 68 ^^ s.b.getLsbD 83
    let t3 := s.c.getLsbD 65 ^^ s.c.getLsbD 110
    s.step.2 = (t1 ^^ t2 ^^ t3) ∧
    (∀ k, k ≤ 92 → s.step.1.a.getLsbD k =
      if k = 0 then t3 ^^ (s.c.getLsbD 108 && s.c.getLsbD 109) ^^ s.a.getLsbD 68 else s.a.getLsbD (k - 1)) ∧
    (∀ k, k ≤ 83 → s.step.1.b.getLsbD k =
      if k = 0 then t1 ^^ (s.a.getLsbD 90 && s.a.getLsbD 91) ^^ s.b.getLsbD 77 else s.b.getLsbD (k - 1)) ∧
    (∀ k, k ≤ 110 → s.step.1.c.getLsbD k =
      if k = 0 then t2 ^^ (s.b.getLsbD 81 && s.b.getLsbD 82) ^^ s.c.getLsbD 86 else s.c.getLsbD (k - 1))) ∧
  Cipher.zero.step = (Cipher.zero, false)

/-- R102: key bits in A[0..79], IV bits in B[0..79], ones in C[108..110], zeros elsewhere. -/
def Obligations.InitPlacesKeyIvAndConstant : Prop :=
  ∀ key iv : TenBytes,
    (∀ k, k ≤ 92 → (cipherInit key iv).a.getLsbD k = if k < 80 then bitOf key.toList k else false) ∧
    (∀ k, k ≤ 83 → (cipherInit key iv).b.getLsbD k = if k < 80 then bitOf iv.toList k else false) ∧
    (cipherInit key iv).c = 0b111#111 <<< 108

/-- R100: the first ten bytes of the input, with zero bytes from the input's length on; never an error. -/
def Obligations.NormalizeTruncatesAndPads : Prop :=
  ∀ (buf : List Byte) (i : Fin 10), (normalizeBuf buf)[i] = if h : i.val < buf.length then buf[i.val] else 0#8

/-- R101: bit i is bit (i mod 8) of byte (i div 8), counted from the least significant; beyond the buffer it is 0. -/
def Obligations.BitAccessorIsLsbFirst : Prop :=
  ∀ (buf : List Byte) (i : Nat),
    bitOf buf i = if h : i / 8 < buf.length then decide ((buf[i / 8].toNat >>> (i % 8)) % 2 = 1) else false

/-- The two representations are one function, the inference the spec marks as derived in R109; TwinStep is R108 in the
grouping that 90_conflicts.md C4 fixes. -/
def Obligations.TwinStepIsStep : Prop :=
  ∀ s : Cipher, twinStep s.int = (s.step.1.int, s.step.2.toNat)

/-- Right after Init the registers are the little-endian key and IV and 7·2^108: the inferences the spec marks as
derived in R41 and R106. -/
def Obligations.TwinInitIsInit : Prop :=
  ∀ key iv : TenBytes, twinInit key iv = (cipherInit key iv).int

/-- The masks of R26 are all ones of their widths, and every step of the integer view ends within them and outputs a
single bit: the part on the invariants is the inference the spec marks as derived in R26. -/
def Obligations.TwinStaysWithinTheMasks : Prop :=
  Config.maskA = 2 ^ 93 - 1 ∧ Config.maskB = 2 ^ 84 - 1 ∧ Config.maskC = 2 ^ 111 - 1 ∧
  ∀ t : Twin,
    (twinStep t).1.a ≤ Config.maskA ∧ (twinStep t).1.b ≤ Config.maskB ∧ (twinStep t).1.c ≤ Config.maskC ∧
      (twinStep t).2 ≤ 1

/-- R112: bit j of byte i is the (8·i + j)-th step output, bit 0 the least significant. -/
def Obligations.KeystreamBytesPackLsbFirst : Prop :=
  ∀ (s : Cipher) (i j : Nat), j < 8 → (s.ksByte i).getLsbD j = s.keyBit (8 * i + j)

/-- After p bytes have been drawn NextByte returns KSByte(p) and leaves the registers 8 steps on: the inference the spec
marks as derived in R160. -/
def Obligations.NextByteReturnsTheNextKeystreamByte : Prop :=
  ∀ (s : Cipher) (p : Nat), (s.steps (8 * p)).nextByte = (s.ksByte p, s.steps (8 * (p + 1)))

/-- R113: InvalidArgument("lengthBytes") exactly for n < 0, else the first n keystream bytes after warm-up. -/
def Obligations.KeystreamIsTheFirstBytesOrInvalidArgument : Prop :=
  ∀ (key iv : List Byte) (n : Int),
    (keystream key iv n = .invalidArgument Config.lengthBytesName ↔ n < 0) ∧
    (0 ≤ n → keystream key iv n = .bytes ((List.range n.toNat).map
      (((cipherInit (normalizeBuf key) (normalizeBuf iv)).steps 1152).ksByte)))

/-- R114: as many bytes as the data has, each the data byte XORed with the keystream byte of its index. -/
def Obligations.XorTransformXorsBytewise : Prop :=
  ∀ key iv data : List Byte,
    (xorTransform key iv data).length = data.length ∧
    ∀ (i : Nat) (h : i < data.length),
      (xorTransform key iv data)[i]? = some (data[i] ^^^ (keystreamStart key iv).ksByte i)

/-- Applying XorTransform twice with one key and IV gives the data back: the inference the spec marks as derived in
R115. -/
def Obligations.XorTransformIsAnInvolution : Prop :=
  ∀ key iv data : List Byte, xorTransform key iv (xorTransform key iv data) = data

/-- A shorter keystream is a prefix of a longer one: the inference the spec marks as derived in R117. -/
def Obligations.ShorterKeystreamIsAPrefix : Prop :=
  ∀ (key iv : List Byte) (n m : Nat) (long : List Byte), n ≤ m → keystream key iv m = .bytes long →
    keystream key iv n = .bytes (long.take n)

/-- The keystream depends on key and IV only through their normal forms: bytes beyond the tenth and zero bytes at the
end change nothing, the inference the spec marks as derived in R118. -/
def Obligations.KeystreamDependsOnNormalFormsOnly : Prop :=
  ∀ (key iv : List Byte) (n : Int),
    keystream (key.take 10) (iv.take 10) n = keystream key iv n ∧
    ∀ j k : Nat, keystream (key ++ List.replicate j 0#8) (iv ++ List.replicate k 0#8) n = keystream key iv n

/-! ## Commands -/

/-- R140: in every phase KEYB stores its byte at KEYBUF[KEYCNT] and counts it while KEYCNT < 10, drops it at 10, answers
OK with no payload, and changes nothing else; a set reserved bit makes the word illegal. -/
def Obligations.KeybStagesOneKeyByte : Prop :=
  (∀ w : CmdWord, w.extractLsb' 24 8 = 0x01#8 →
    decode w = if w.extractLsb' 8 16 = 0#16 then .command (.keyb (w.extractLsb' 0 8)) else .illegal .reservedBits) ∧
  (∀ (s : State) (data : Byte), s.accepting → ∃ t, exec (.keyb data) s = .next t ∧
    (∀ i : Fin 10, t.keybuf[i] = if i.val = s.keycnt.toNat then data else s.keybuf[i]) ∧
    t.keycnt.toNat = min 10 (s.keycnt.toNat + 1) ∧
    t = { s with keybuf := t.keybuf, keycnt := t.keycnt, commands := s.commands.tail,
                 responses := s.responses ++ [⟨.ok, []⟩] })

/-- R141: IVB does to IVBUF and IVCNT what KEYB does to KEYBUF and KEYCNT. -/
def Obligations.IvbStagesOneIvByte : Prop :=
  (∀ w : CmdWord, w.extractLsb' 24 8 = 0x02#8 →
    decode w = if w.extractLsb' 8 16 = 0#16 then .command (.ivb (w.extractLsb' 0 8)) else .illegal .reservedBits) ∧
  (∀ (s : State) (data : Byte), s.accepting → ∃ t, exec (.ivb data) s = .next t ∧
    (∀ i : Fin 10, t.ivbuf[i] = if i.val = s.ivcnt.toNat then data else s.ivbuf[i]) ∧
    t.ivcnt.toNat = min 10 (s.ivcnt.toNat + 1) ∧
    t = { s with ivbuf := t.ivbuf, ivcnt := t.ivcnt, commands := s.commands.tail,
                 responses := s.responses ++ [⟨.ok, []⟩] })

/-- R142: in every phase INIT loads the registers from the staging buffers, clears these, sets WCNT to 0 and PHASE to
WARMUP and answers OK; a second INIT right after it loads the zero key and IV; only the word 0x03000000 is INIT. What
KEYBUF and IVBUF hold in terms of Normalize, which R142 marks as derived, is in SessionStartsAtItsKeystream. -/
def Obligations.InitLoadsTheSessionAndClearsStaging : Prop :=
  (∀ w : CmdWord, decode w = .command .init ↔ w = 0x03000000#32) ∧
  (∀ s : State, s.accepting → exec .init s = .next { s with
    cipher := cipherInit s.keybuf s.ivbuf, keybuf := TenBytes.zero, keycnt := 0#4, ivbuf := TenBytes.zero,
    ivcnt := 0#4, wcnt := 0#11, phase := .warmup, commands := s.commands.tail,
    responses := s.responses ++ [⟨.ok, []⟩] }) ∧
  (∀ s t : State, s.respCap = none → exec .init s = .next t → ∃ u, exec .init t = .next u ∧
    u.cipher = cipherInit TenBytes.zero TenBytes.zero)

/-- R161: GEN by its checks in order: n < 0 in every phase, then IDLE, then the hold of WARMUP, then n keystream bytes
in one response and 8·n steps. -/
def Obligations.GenGeneratesKeystream : Prop :=
  (∀ w : CmdWord, w &&& 0xFF000000#32 = 0x04000000#32 → decode w = .command (.gen (w.extractLsb' 0 24).toInt)) ∧
  (∀ (s : State) (n : Int), s.accepting →
    (n < 0 → exec (.gen n) s = .next { s with
      commands := s.commands.tail, responses := s.responses ++ [⟨.invalidArgument, Config.lengthBytesName⟩] }) ∧
    (0 ≤ n → s.phase = .idle → exec (.gen n) s = .next { s with
      commands := s.commands.tail, responses := s.responses ++ [⟨.notInitialized, []⟩] }) ∧
    (0 ≤ n → s.phase = .warmup → exec (.gen n) s = .next s) ∧
    (0 ≤ n → s.phase = .ready → exec (.gen n) s = .next { s with
      cipher := s.cipher.steps (8 * n.toNat), commands := s.commands.tail,
      responses := s.responses ++ [⟨.ok, (List.range n.toNat).map s.cipher.ksByte⟩] }))

/-- R162: XORB by its checks in order: IDLE, then the hold of WARMUP, then the data byte XORed with the next keystream
byte, and 8 steps. After GEN a it uses keystream byte a, and from equal registers XORB of the answer gives the data back. -/
def Obligations.XorbXorsTheNextKeystreamByte : Prop :=
  (∀ w : CmdWord, w.extractLsb' 24 8 = 0x05#8 →
    decode w = if w.extractLsb' 8 16 = 0#16 then .command (.xorb (w.extractLsb' 0 8)) else .illegal .reservedBits) ∧
  (∀ (s : State) (data : Byte), s.accepting →
    (s.phase = .idle → exec (.xorb data) s = .next { s with
      commands := s.commands.tail, responses := s.responses ++ [⟨.notInitialized, []⟩] }) ∧
    (s.phase = .warmup → exec (.xorb data) s = .next s) ∧
    (s.phase = .ready → exec (.xorb data) s = .next { s with
      cipher := s.cipher.steps 8, commands := s.commands.tail,
      responses := s.responses ++ [⟨.ok, [data ^^^ s.cipher.ksByte 0]⟩] })) ∧
  (∀ (s : State) (a : Nat) (data : Byte), s.violation = none → s.respCap = none → s.phase = .ready →
    ∃ t u, exec (.gen a) s = .next t ∧ exec (.xorb data) t = .next u ∧
      u.responses = t.responses ++ [⟨.ok, [data ^^^ s.cipher.ksByte a]⟩]) ∧
  (∀ (s s' : State) (data : Byte), s.accepting → s'.accepting → s.phase = .ready → s'.phase = .ready →
    s'.cipher = s.cipher → ∃ t u answer, exec (.xorb data) s = .next t ∧
      t.responses = s.responses ++ [⟨.ok, [answer]⟩] ∧ exec (.xorb answer) s' = .next u ∧
      u.responses = s'.responses ++ [⟨.ok, [data]⟩] ∧ u.cipher = t.cipher)

/-- R180: in every phase STAT answers the four bytes of PHASE + 4·KEYCNT + 64·IVCNT + 1024·WCNT, least
significant first, and writes no state, so 02 00 12 00 in READY with empty staging; only the word 0x06000000 is STAT; within a session the WCNT a later STAT reports
is not below an earlier one's. -/
def Obligations.StatReportsStatus : Prop :=
  (∀ w : CmdWord, decode w = .command .stat ↔ w = 0x06000000#32) ∧
  (∀ s : State, s.accepting → ∃ b0 b1 b2 b3 : Byte,
    exec .stat s = .next { s with
      commands := s.commands.tail, responses := s.responses ++ [⟨.ok, [b0, b1, b2, b3]⟩] } ∧
    b0.toNat + 2 ^ 8 * b1.toNat + 2 ^ 16 * b2.toNat + 2 ^ 24 * b3.toNat =
      s.phase.bits.toNat + 4 * s.keycnt.toNat + 64 * s.ivcnt.toNat + 1024 * s.wcnt.toNat) ∧
  (∀ s : State, s.accepting → s.phase = .ready → s.wcnt = 1152#11 → s.keycnt = 0#4 → s.ivcnt = 0#4 →
    exec .stat s = .next { s with
      commands := s.commands.tail, responses := s.responses ++ [⟨.ok, [0x02, 0x00, 0x12, 0x00]⟩] }) ∧
  (∀ s : State, s.Inv → s.phase = .warmup → s.wcnt.toNat ≤ 1151) ∧
  (∀ s : State, s.Inv → s.phase = .ready → s.wcnt.toNat = 1152) ∧
  (∀ s t : State, s.Inv → step s = .next t → ¬ Performed .init s t → (∀ rest, s.schedule ≠ .reset :: rest) →
    s.wcnt.toNat ≤ t.wcnt.toNat)

/-- R32: where each field of STATUS stands, the values of PHASE in it, and that its bits 31:21 are always 0. -/
def Obligations.StatusFieldLayout : Prop :=
  Phase.bits .idle = 0#2 ∧ Phase.bits .warmup = 1#2 ∧ Phase.bits .ready = 2#2 ∧ ∀ s : State,
    s.status.extractLsb' 0 2 = s.phase.bits ∧ s.status.extractLsb' 2 4 = s.keycnt ∧
    s.status.extractLsb' 6 4 = s.ivcnt ∧ s.status.extractLsb' 10 11 = s.wcnt ∧
    s.status.extractLsb' 21 11 = 0#11

/-- The write columns of the access table R33, for the six commands: which of A, B, C, PHASE, WCNT and the staging state
each leaves unchanged, and that none touches the environment but its own word and response. -/
def Obligations.CommandsWriteOnlyTheirFields : Prop :=
  ∀ (i : Instr) (s t : State), exec i s = .next t →
    ((∃ data, i = .keyb data) ∨ (∃ data, i = .ivb data) ∨ i = .stat → t.cipher = s.cipher) ∧
    (i ≠ .init → t.phase = s.phase ∧ t.wcnt = s.wcnt) ∧
    (i ≠ .init → (∀ data, i ≠ .keyb data) → t.keybuf = s.keybuf ∧ t.keycnt = s.keycnt) ∧
    (i ≠ .init → (∀ data, i ≠ .ivb data) → t.ivbuf = s.ivbuf ∧ t.ivcnt = s.ivcnt) ∧
    t.taken = s.taken ∧ t.respCap = s.respCap ∧ t.schedule = s.schedule ∧ t.tick = s.tick

/-- R68 and R69: a consumed command has exactly one response and a held one none, the payload of each response of each
command, and the code numbers, of which no other exists. -/
def Obligations.ResponsePayloads : Prop :=
  (∀ (i : Instr) (s t : State), exec i s = .next t →
    t = s ∨ (t.commands = s.commands.tail ∧ ∃ r, t.responses = s.responses ++ [r])) ∧
  (∀ code : Code, code.bits.toNat < 0x04) ∧
  (∀ (i : Instr) (s t : State) (code : Code) (payload : List Byte),
    exec i s = .next t → t.responses = s.responses ++ [⟨code, payload⟩] →
    (code = .ok → payload.length = (match i with
      | .keyb _ => 0 | .ivb _ => 0 | .init => 0 | .gen n => n.toNat | .xorb _ => 1 | .stat => 4)) ∧
    (code = .invalidArgument → (∃ n, i = .gen n ∧ n < 0) ∧
      payload = [0x6C, 0x65, 0x6E, 0x67, 0x74, 0x68, 0x42, 0x79, 0x74, 0x65, 0x73]) ∧
    (code = .notInitialized → ((∃ n, i = .gen n) ∨ ∃ data, i = .xorb data) ∧ s.phase = .idle ∧ payload = []) ∧
    code ≠ .illegalCommand) ∧
  (∀ (s t : State) (code : Code) (payload : List Byte),
    execIllegal s = .next t → t.responses = s.responses ++ [⟨code, payload⟩] →
    code = .illegalCommand ∧ payload = []) ∧
  Code.ok.bits = 0x00#8 ∧ Code.illegalCommand.bits = 0x01#8 ∧ Code.invalidArgument.bits = 0x02#8 ∧
  Code.notInitialized.bits = 0x03#8

/-- R201: a command that gets an error response writes no state, performs no step, is consumed, and answers once. -/
def Obligations.ErrorsArePrecise : Prop :=
  ∀ (s t : State) (code : Code) (payload : List Byte), code ≠ .ok →
    step (s.giveTurn .command) = .next t → t.responses = s.responses ++ [⟨code, payload⟩] →
    ∃ w, s.commands = w :: t.commands ∧
      t = { s with commands := t.commands, responses := s.responses ++ [⟨code, payload⟩] }

/-- R202: the one outcome of a command, by the five checks in their order. -/
def Obligations.OutcomePriority : Prop :=
  ∀ (s : State) (w : CmdWord), s.accepting →
    ∃ t, step ((s.withHead w).giveTurn .command) = .next t ∧
      match decode w with
      | .illegal _ => t.commands = s.commands ∧ t.responses = s.responses ++ [⟨.illegalCommand, []⟩]
      | .command (.gen n) =>
        if n < 0 then
          t.commands = s.commands ∧ t.responses = s.responses ++ [⟨.invalidArgument, Config.lengthBytesName⟩]
        else if s.phase = .idle then
          t.commands = s.commands ∧ t.responses = s.responses ++ [⟨.notInitialized, []⟩]
        else if s.phase = .warmup then t = s.withHead w
        else t.commands = s.commands ∧ ∃ payload, t.responses = s.responses ++ [⟨.ok, payload⟩]
      | .command (.xorb _) =>
        if s.phase = .idle then
          t.commands = s.commands ∧ t.responses = s.responses ++ [⟨.notInitialized, []⟩]
        else if s.phase = .warmup then t = s.withHead w
        else t.commands = s.commands ∧ ∃ payload, t.responses = s.responses ++ [⟨.ok, payload⟩]
      | .command _ => t.commands = s.commands ∧ ∃ payload, t.responses = s.responses ++ [⟨.ok, payload⟩]

/-- R205: which commands are held, that a held command changes nothing and stays at the head, that with an unbounded
channel the remaining 1152 − WCNT warm-up steps lift the hold, and that a reset lifts it too, after which the command
answers NOT_INITIALIZED. The premise of the reset clause leaves out only the impossible states (log entry 9, DEDUCED). -/
def Obligations.HoldsAndHowTheyLift : Prop :=
  (∀ (s : State) (w : CmdWord), s.holds w = true ↔ s.channelFull = true ∨ (s.phase = .warmup ∧
    ((∃ n, decode w = .command (.gen n) ∧ 0 ≤ n) ∨ ∃ data, decode w = .command (.xorb data)))) ∧
  (∀ (s : State) (w : CmdWord), s.violation = none → s.holds w = true →
    step ((s.withHead w).giveTurn .command) = .next (s.withHead w)) ∧
  (∀ (s : State) (w : CmdWord), s.Inv → s.respCap = none → s.schedule = [] → s.phase = .warmup → s.holds w = true →
    ∃ t : State, Host.Core.run Sys2Proof.core (1152 - s.wcnt.toNat) (s.withHead w) = .next t ∧ t.phase = .ready ∧
      t.commands = w :: s.commands ∧ t.responses = s.responses ∧ t.holds w = false) ∧
  (∀ (s : State) (w : CmdWord), s.violation = none → s.respCap = none → s.phase = .warmup → s.holds w = true →
    ∃ t u, step ((s.withHead w).giveTurn .reset) = .next t ∧ t.commands = w :: s.commands ∧
      step (t.giveTurn .command) = .next u ∧ u.commands = s.commands ∧
      u.responses = s.responses ++ [⟨.notInitialized, []⟩])

/-- GEN a then GEN b answers the bytes of GEN (a+b), split at a, and leaves the same registers: the inference the spec
marks as derived in R163. -/
def Obligations.SplitGenerationEqualsOne : Prop :=
  ∀ (s : State) (a b : Nat), s.violation = none → s.respCap = none → s.phase = .ready →
    ∃ t u v pa pb, exec (.gen a) s = .next t ∧ exec (.gen b) t = .next u ∧ exec (.gen (a + b : Nat)) s = .next v ∧
      t.responses = s.responses ++ [⟨.ok, pa⟩] ∧ u.responses = t.responses ++ [⟨.ok, pb⟩] ∧
      v.responses = s.responses ++ [⟨.ok, pa ++ pb⟩] ∧ pa.length = a ∧ u.cipher = v.cipher

/-- A KEYB or IVB and a warm-up step may come in either order: both lead to the same state, the part about the staging
state of the inference the spec marks as derived in R52. -/
def Obligations.StagingCommutesWithWarmup : Prop :=
  ∀ (s : State) (data : Byte) (i : Instr), (i = .keyb data ∨ i = .ivb data) → s.accepting → s.phase = .warmup →
    s.wcnt.toNat ≤ 1151 →
    ∃ t u v, exec i s = .next t ∧ step (t.giveTurn .warmup) = .next u ∧
      step (s.giveTurn .warmup) = .next v ∧ exec i v = .next u

/-- INIT reads nothing of the session it ends: two states that differ only in A, B, C, PHASE and WCNT are the same after
it. Derived from R40 and R142. -/
def Obligations.InitForgetsTheOldSession : Prop :=
  ∀ (s : State) (cipher : Cipher) (phase : Phase) (wcnt : BitVec 11), s.accepting →
    State.accepting { s with cipher := cipher, phase := phase, wcnt := wcnt } →
    ∃ t, exec .init s = .next t ∧ exec .init { s with cipher := cipher, phase := phase, wcnt := wcnt } = .next t

/-! ## Reset, faults and invariants -/

/-- R36: the reset value of every field, and STATUS after reset (which R36 marks as derived from R32). -/
def Obligations.ResetValues : Prop :=
  State.reset.cipher.a = 0#93 ∧ State.reset.cipher.b = 0#84 ∧ State.reset.cipher.c = 0#111 ∧
  State.reset.phase = .idle ∧ State.reset.wcnt = 0#11 ∧
  State.reset.keybuf = #v[0, 0, 0, 0, 0, 0, 0, 0, 0, 0] ∧ State.reset.keycnt = 0#4 ∧
  State.reset.ivbuf = #v[0, 0, 0, 0, 0, 0, 0, 0, 0, 0] ∧ State.reset.ivcnt = 0#4 ∧
  State.reset.status = 0x00000000#32

/-- R230: reset sets every field to its reset value from every state R214 allows, produces no response, recalls none and
consumes no word; a GEN or XORB still at the head then answers NOT_INITIALIZED. The premise leaves out only the impossible
states, where a reset faults by the model's reading (log entry 9, DEDUCED). -/
def Obligations.ResetEventEffect : Prop :=
  (∀ s : State, s.violation = none → step (s.giveTurn .reset) = .next { s with
    cipher := State.reset.cipher, phase := .idle, wcnt := 0#11, keybuf := State.reset.keybuf, keycnt := 0#4,
    ivbuf := State.reset.ivbuf, ivcnt := 0#4 }) ∧
  (∀ (s t u : State) (w : CmdWord) (cs : List CmdWord), s.commands = w :: cs → s.respCap = none →
    ((∃ n, decode w = .command (.gen n) ∧ 0 ≤ n) ∨ ∃ data, decode w = .command (.xorb data)) →
    step (s.giveTurn .reset) = .next t → step (t.giveTurn .command) = .next u →
    u = { t with commands := cs, responses := s.responses ++ [⟨.notInitialized, []⟩] })

/-- Derived from R214: a command, and any step, faults exactly in a state with PHASE = 3, WCNT > 1152, KEYCNT > 10 or
IVCNT > 10, registers cannot exceed their masks, and a word that decodes to Illegal is performed wherever a command is.
That a step which is a reset faults there too is the model's reading of R214 against R230 (log entry 9, DEDUCED). -/
def Obligations.FaultsExactlyInImpossibleStates : Prop :=
  (∀ (i : Instr) (s : State), (∃ f, exec i s = .fault f) ↔
    (s.phase = .reserved ∨ 1152 < s.wcnt.toNat ∨ 10 < s.keycnt.toNat ∨ 10 < s.ivcnt.toNat)) ∧
  (∀ s : State, (∃ f, step s = .fault f) ↔
    (s.phase = .reserved ∨ 1152 < s.wcnt.toNat ∨ 10 < s.keycnt.toNat ∨ 10 < s.ivcnt.toNat)) ∧
  Phase.bits .reserved = 3#2 ∧
  (∀ s : State, s.cipher.a.toNat ≤ Config.maskA ∧ s.cipher.b.toNat ≤ Config.maskB ∧
    s.cipher.c.toNat ≤ Config.maskC) ∧
  (∀ (s : State) (w : CmdWord) (why : IllegalReason), decode w = .illegal why → s.accepting →
    ∃ t, step ((s.withHead w).giveTurn .command) = .next t)

/-- Every step keeps the invariant: WCNT by phase and zero registers in IDLE (R31), counts at most 10 with zero bytes
above them (R29, R30), and the channel within its capacity. The spec marks these invariants as derived; the channel's
part is the model's (log entry 3). -/
def Obligations.EveryStepKeepsTheInvariant : Prop :=
  ∀ s t : State, s.Inv → step s = .next t → t.Inv

/-- The reset state meets the invariant. -/
def Obligations.ResetMeetsTheInvariant : Prop :=
  State.reset.Inv

/-- From a state that meets the invariant every step answers a next state: nothing faults and nothing is refused, part
of the stuck freedom the spec marks as derived in R197. -/
def Obligations.NoFaultOrRefusalUnderTheInvariant : Prop :=
  ∀ s : State, s.Inv → ∃ t, step s = .next t

/-- A state with a command left or a warm-up running makes progress under the default schedule: a word is consumed or
WCNT rises (R197, marked derived; an unbounded channel). -/
def Obligations.UnfinishedRunsMakeProgress : Prop :=
  ∀ s : State, s.Inv → s.respCap = none → s.schedule = [] → ¬ s.finished →
    ∃ t, step s = .next t ∧ (t.commands.length + 1 = s.commands.length ∨
      (t.commands = s.commands ∧ t.wcnt.toNat = s.wcnt.toNat + 1))

/-- Every finite run ends: from a state that meets the invariant, with an unbounded channel and whatever schedule of
turns, resets among them, some number of steps performs every command and leaves no warm-up running. R196 states it
under weak fairness; that a finite schedule followed by the default gives such a run is the model's (log entry 11). -/
def Obligations.EveryFiniteRunEnds : Prop :=
  ∀ s : State, s.Inv → s.respCap = none →
    ∃ (k : Nat) (t : State), Host.Core.run Sys2Proof.core k s = .next t ∧ t.finished ∧ t.schedule = [] ∧
      s.responses.length + s.commands.length = t.responses.length

/-- The host's consuming makes room in a full bounded channel, one response at a time, and changes nothing else. The
bounded channel is the spec's open parameter RespCap, its form here the model's (log entry 3). -/
def Obligations.ConsumingAResponseMakesRoom : Prop :=
  ∀ (s : State) (cap : Nat), s.Inv → s.respCap = some cap → 0 < cap → s.channelFull = true →
    step (s.giveTurn .take) = .next { s with taken := s.taken + 1 } ∧
      State.channelFull { s with taken := s.taken + 1 } = false

/-! ## Sessions and host operations -/

/-- Whatever commands other than INIT come first, INIT loads the normal forms of the KEYB and IVB bytes among them, and
1152 warm-up steps later the block is READY at the start of their keystream: the inference the spec marks as derived in
R145. -/
def Obligations.SessionStartsAtItsKeystream : Prop :=
  ∀ (is : List Instr) (s : State), s.violation = none → s.respCap = none → s.stagingEmpty → .init ∉ is →
    ∃ t u : State, execAll (is ++ [.init]) s = .next t ∧
      t.cipher = cipherInit (normalizeBuf (keyBytes is)) (normalizeBuf (ivBytes is)) ∧ t.phase = .warmup ∧
      Host.Core.run Sys2Proof.core 1152 { t with schedule := List.replicate 1152 .warmup } = .next u ∧
      u.phase = .ready ∧ u.cipher = keystreamStart (keyBytes is) (ivBytes is)

/-- Every word a transaction issues is legal, part of the inference the spec marks as derived in R195, and the pieces of
GENL add up to n (R71). -/
def Obligations.TransactionWordsAreLegal : Prop :=
  (∀ (key iv : List Byte) (n : Int), ∀ w ∈ hostGenerateWords key iv n, ∃ i, decode w = .command i) ∧
  (∀ key iv data : List Byte, ∀ w ∈ hostXorWords key iv data, ∃ i, decode w = .command i) ∧
  (∀ n : Nat, ∃ q r : Nat, n = 8388607 * q + r ∧ r < 8388607 ∧
    (expandGenl n).map encode = List.replicate q 0x047FFFFF#32 ++ [0x04000000#32 ||| BitVec.ofNat 32 r])

/-- HostGenerate is Keystream, the inference the spec marks as derived in R193: from any state with empty staging
buffers, no word unperformed, an unbounded channel and no reset scheduled, the transaction's run ends, and the responses
to its GENs are read as Keystream(key, iv, n), for every key, iv and integer n and for every schedule. -/
def Obligations.HostGenerateIsKeystream : Prop :=
  ∀ (s : State) (key iv : List Byte) (n : Int), s.Inv → s.quiet → s.stagingEmpty → s.commands = [] →
    ∃ (k : Nat) (t : State) (rs : List Response), Host.Core.run Sys2Proof.core k (s.present (hostGenerateWords key iv n)) = .next t ∧ t.finished ∧
      t.responses = s.responses ++ List.replicate (key.length + iv.length + 1) ⟨.ok, []⟩ ++ rs ∧
      generateResult rs = keystream key iv n

/-- HostXor is XorTransform, the inference the spec marks as derived in R194, in the same sense. -/
def Obligations.HostXorIsXorTransform : Prop :=
  ∀ (s : State) (key iv data : List Byte), s.Inv → s.quiet → s.stagingEmpty → s.commands = [] →
    ∃ (k : Nat) (t : State) (rs : List Response), Host.Core.run Sys2Proof.core k (s.present (hostXorWords key iv data)) = .next t ∧ t.finished ∧
      t.responses = s.responses ++ List.replicate (key.length + iv.length + 1) ⟨.ok, []⟩ ++ rs ∧
      xorResult rs = xorTransform key iv data
end

