-- ==== Sys2Proof/Laws/Cipher.lean ====
section
/-! SUPPORT. The small lemmas of the functional level: bits of a built register, composition of steps, the byte loop and drawing. -/

namespace Sys2Proof.Machine

@[simp] theorem ofBits_getLsbD (w : Nat) (f : Nat → Bool) (i : Nat) :
    (ofBits w f).getLsbD i = (decide (i < w) && f i) := by
  induction w with
  | zero => simp [ofBits]
  | succ w ih =>
    rw [ofBits, BitVec.getLsbD_cons, ih]
    split
    · subst_vars; simp
    · by_cases h : i < w
      · simp [h, Nat.lt_succ_of_lt h]
      · have : ¬ i < w + 1 := by omega
        simp [h, this]

@[simp] theorem Cipher.steps_zero (s : Cipher) : s.steps 0 = s := rfl

theorem Cipher.steps_succ (n : Nat) (s : Cipher) : s.steps (n + 1) = s.step.1.steps n := rfl

/-- Steps compose: the keystream is strictly sequential (R57). -/
theorem Cipher.steps_add (m n : Nat) (s : Cipher) : s.steps (m + n) = (s.steps m).steps n := by
  induction m generalizing s with
  | zero => simp
  | succ m ih => rw [Nat.succ_add]; exact ih s.step.1

theorem Cipher.steps_succ' (n : Nat) (s : Cipher) : s.steps (n + 1) = (s.steps n).step.1 := by
  rw [Cipher.steps_add n 1]; rfl

/-- A keystream bit seen from a later state. -/
theorem Cipher.keyBit_steps (m n : Nat) (s : Cipher) : (s.steps m).keyBit n = s.keyBit (m + n) := by
  simp [Cipher.keyBit, Cipher.steps_add]

/-- A keystream byte seen from a later state (R112). -/
theorem Cipher.ksByte_steps (p i : Nat) (s : Cipher) : (s.steps (8 * p)).ksByte i = s.ksByte (p + i) := by
  simp [Cipher.ksByte, Cipher.keyBit_steps, Nat.mul_add, Nat.add_assoc]

@[simp] theorem Cipher.draw_zero (s : Cipher) : s.draw 0 = ([], s) := rfl

@[simp] theorem Cipher.draw_succ (n : Nat) (s : Cipher) : s.draw (n + 1) =
    (s.nextByte.1 :: (s.nextByte.2.draw n).1, (s.nextByte.2.draw n).2) := rfl

@[simp] theorem Cipher.draw_length (n : Nat) (s : Cipher) : (s.draw n).1.length = n := by
  induction n generalizing s with
  | zero => rfl
  | succ n ih => simp [ih]

/-- NextByte leaves the registers eight steps on (R160). -/
theorem Cipher.byteLoop_state (k j : Nat) (byte : Byte) (s : Cipher) : (s.byteLoop k j byte).2 = s.steps k := by
  induction k generalizing j byte s with
  | zero => rfl
  | succ k ih => exact ih (j + 1) _ s.step.1

/-- Bit j of a byte of one bit. -/
theorem bitAt_getLsbD (b : Bool) (j k : Nat) : (bitAt b j).getLsbD k = (decide (k = j ∧ k < 8) && b) := by
  unfold bitAt
  simp only [BitVec.getLsbD_shiftLeft, BitVec.getLsbD_setWidth, BitVec.getLsbD_ofBool]
  by_cases h8 : k < 8 <;> by_cases hj : k < j <;> by_cases hkj : k = j <;> simp_all; omega

end Sys2Proof.Machine
end

