-- ==== Sys2Proof/Laws/State.lean ====
section
/-! SUPPORT. One lemma per field per named update of the state, so that no proof unfolds a record update; the fields of State.reset (spec/10_state.md R36). -/

namespace Sys2Proof.Machine

@[simp] theorem respond_cipher (code : Code) (payload : List Byte) (s : State) : (respond code payload s).cipher = s.cipher := rfl
@[simp] theorem respond_phase (code : Code) (payload : List Byte) (s : State) : (respond code payload s).phase = s.phase := rfl
@[simp] theorem respond_wcnt (code : Code) (payload : List Byte) (s : State) : (respond code payload s).wcnt = s.wcnt := rfl
@[simp] theorem respond_keybuf (code : Code) (payload : List Byte) (s : State) : (respond code payload s).keybuf = s.keybuf := rfl
@[simp] theorem respond_keycnt (code : Code) (payload : List Byte) (s : State) : (respond code payload s).keycnt = s.keycnt := rfl
@[simp] theorem respond_ivbuf (code : Code) (payload : List Byte) (s : State) : (respond code payload s).ivbuf = s.ivbuf := rfl
@[simp] theorem respond_ivcnt (code : Code) (payload : List Byte) (s : State) : (respond code payload s).ivcnt = s.ivcnt := rfl
@[simp] theorem respond_commands (code : Code) (payload : List Byte) (s : State) : (respond code payload s).commands = s.commands.tail := rfl
@[simp] theorem respond_responses (code : Code) (payload : List Byte) (s : State) : (respond code payload s).responses = s.responses ++ [⟨code, payload⟩] := rfl
@[simp] theorem respond_taken (code : Code) (payload : List Byte) (s : State) : (respond code payload s).taken = s.taken := rfl
@[simp] theorem respond_respCap (code : Code) (payload : List Byte) (s : State) : (respond code payload s).respCap = s.respCap := rfl
@[simp] theorem respond_schedule (code : Code) (payload : List Byte) (s : State) : (respond code payload s).schedule = s.schedule := rfl
@[simp] theorem respond_tick (code : Code) (payload : List Byte) (s : State) : (respond code payload s).tick = s.tick := rfl

@[simp] theorem loadSession_cipher (s : State) : (loadSession s).cipher = cipherInit s.keybuf s.ivbuf := rfl
@[simp] theorem loadSession_phase (s : State) : (loadSession s).phase = .warmup := rfl
@[simp] theorem loadSession_wcnt (s : State) : (loadSession s).wcnt = 0#11 := rfl
@[simp] theorem loadSession_keybuf (s : State) : (loadSession s).keybuf = TenBytes.zero := rfl
@[simp] theorem loadSession_keycnt (s : State) : (loadSession s).keycnt = 0#4 := rfl
@[simp] theorem loadSession_ivbuf (s : State) : (loadSession s).ivbuf = TenBytes.zero := rfl
@[simp] theorem loadSession_ivcnt (s : State) : (loadSession s).ivcnt = 0#4 := rfl
@[simp] theorem loadSession_commands (s : State) : (loadSession s).commands = s.commands := rfl
@[simp] theorem loadSession_responses (s : State) : (loadSession s).responses = s.responses := rfl
@[simp] theorem loadSession_taken (s : State) : (loadSession s).taken = s.taken := rfl
@[simp] theorem loadSession_respCap (s : State) : (loadSession s).respCap = s.respCap := rfl
@[simp] theorem loadSession_schedule (s : State) : (loadSession s).schedule = s.schedule := rfl
@[simp] theorem loadSession_tick (s : State) : (loadSession s).tick = s.tick := rfl

@[simp] theorem wstep_cipher (s : State) : (wstep s).cipher = s.cipher.step.1 := rfl
@[simp] theorem wstep_phase (s : State) : (wstep s).phase = if s.wcnt + 1#11 = 1152#11 then .ready else s.phase := rfl
@[simp] theorem wstep_wcnt (s : State) : (wstep s).wcnt = s.wcnt + 1#11 := rfl
@[simp] theorem wstep_keybuf (s : State) : (wstep s).keybuf = s.keybuf := rfl
@[simp] theorem wstep_keycnt (s : State) : (wstep s).keycnt = s.keycnt := rfl
@[simp] theorem wstep_ivbuf (s : State) : (wstep s).ivbuf = s.ivbuf := rfl
@[simp] theorem wstep_ivcnt (s : State) : (wstep s).ivcnt = s.ivcnt := rfl
@[simp] theorem wstep_commands (s : State) : (wstep s).commands = s.commands := rfl
@[simp] theorem wstep_responses (s : State) : (wstep s).responses = s.responses := rfl
@[simp] theorem wstep_taken (s : State) : (wstep s).taken = s.taken := rfl
@[simp] theorem wstep_respCap (s : State) : (wstep s).respCap = s.respCap := rfl
@[simp] theorem wstep_schedule (s : State) : (wstep s).schedule = s.schedule := rfl
@[simp] theorem wstep_tick (s : State) : (wstep s).tick = s.tick := rfl

@[simp] theorem resetBlock_cipher (s : State) : (resetBlock s).cipher = Cipher.zero := rfl
@[simp] theorem resetBlock_phase (s : State) : (resetBlock s).phase = .idle := rfl
@[simp] theorem resetBlock_wcnt (s : State) : (resetBlock s).wcnt = 0#11 := rfl
@[simp] theorem resetBlock_keybuf (s : State) : (resetBlock s).keybuf = TenBytes.zero := rfl
@[simp] theorem resetBlock_keycnt (s : State) : (resetBlock s).keycnt = 0#4 := rfl
@[simp] theorem resetBlock_ivbuf (s : State) : (resetBlock s).ivbuf = TenBytes.zero := rfl
@[simp] theorem resetBlock_ivcnt (s : State) : (resetBlock s).ivcnt = 0#4 := rfl
@[simp] theorem resetBlock_commands (s : State) : (resetBlock s).commands = s.commands := rfl
@[simp] theorem resetBlock_responses (s : State) : (resetBlock s).responses = s.responses := rfl
@[simp] theorem resetBlock_taken (s : State) : (resetBlock s).taken = s.taken := rfl
@[simp] theorem resetBlock_respCap (s : State) : (resetBlock s).respCap = s.respCap := rfl
@[simp] theorem resetBlock_schedule (s : State) : (resetBlock s).schedule = s.schedule := rfl
@[simp] theorem resetBlock_tick (s : State) : (resetBlock s).tick = s.tick := rfl

@[simp] theorem State.withFetchWord_cipher (s : State) (nbits w : Nat) : (s.withFetchWord nbits w).cipher = s.cipher := rfl
@[simp] theorem State.withFetchWord_phase (s : State) (nbits w : Nat) : (s.withFetchWord nbits w).phase = s.phase := rfl
@[simp] theorem State.withFetchWord_wcnt (s : State) (nbits w : Nat) : (s.withFetchWord nbits w).wcnt = s.wcnt := rfl
@[simp] theorem State.withFetchWord_keybuf (s : State) (nbits w : Nat) : (s.withFetchWord nbits w).keybuf = s.keybuf := rfl
@[simp] theorem State.withFetchWord_keycnt (s : State) (nbits w : Nat) : (s.withFetchWord nbits w).keycnt = s.keycnt := rfl
@[simp] theorem State.withFetchWord_ivbuf (s : State) (nbits w : Nat) : (s.withFetchWord nbits w).ivbuf = s.ivbuf := rfl
@[simp] theorem State.withFetchWord_ivcnt (s : State) (nbits w : Nat) : (s.withFetchWord nbits w).ivcnt = s.ivcnt := rfl
@[simp] theorem State.withFetchWord_commands (s : State) (nbits w : Nat) : (s.withFetchWord nbits w).commands = tableWord nbits w :: s.commands := rfl
@[simp] theorem State.withFetchWord_responses (s : State) (nbits w : Nat) : (s.withFetchWord nbits w).responses = s.responses := rfl
@[simp] theorem State.withFetchWord_taken (s : State) (nbits w : Nat) : (s.withFetchWord nbits w).taken = s.taken := rfl
@[simp] theorem State.withFetchWord_respCap (s : State) (nbits w : Nat) : (s.withFetchWord nbits w).respCap = s.respCap := rfl
@[simp] theorem State.withFetchWord_schedule (s : State) (nbits w : Nat) : (s.withFetchWord nbits w).schedule = .command :: s.schedule := rfl
@[simp] theorem State.withFetchWord_tick (s : State) (nbits w : Nat) : (s.withFetchWord nbits w).tick = s.tick := rfl

@[simp] theorem State.present_cipher (s : State) (ws : List CmdWord) : (s.present ws).cipher = s.cipher := rfl
@[simp] theorem State.present_phase (s : State) (ws : List CmdWord) : (s.present ws).phase = s.phase := rfl
@[simp] theorem State.present_wcnt (s : State) (ws : List CmdWord) : (s.present ws).wcnt = s.wcnt := rfl
@[simp] theorem State.present_keybuf (s : State) (ws : List CmdWord) : (s.present ws).keybuf = s.keybuf := rfl
@[simp] theorem State.present_keycnt (s : State) (ws : List CmdWord) : (s.present ws).keycnt = s.keycnt := rfl
@[simp] theorem State.present_ivbuf (s : State) (ws : List CmdWord) : (s.present ws).ivbuf = s.ivbuf := rfl
@[simp] theorem State.present_ivcnt (s : State) (ws : List CmdWord) : (s.present ws).ivcnt = s.ivcnt := rfl
@[simp] theorem State.present_commands (s : State) (ws : List CmdWord) : (s.present ws).commands = s.commands ++ ws := rfl
@[simp] theorem State.present_responses (s : State) (ws : List CmdWord) : (s.present ws).responses = s.responses := rfl
@[simp] theorem State.present_taken (s : State) (ws : List CmdWord) : (s.present ws).taken = s.taken := rfl
@[simp] theorem State.present_respCap (s : State) (ws : List CmdWord) : (s.present ws).respCap = s.respCap := rfl
@[simp] theorem State.present_schedule (s : State) (ws : List CmdWord) : (s.present ws).schedule = s.schedule := rfl
@[simp] theorem State.present_tick (s : State) (ws : List CmdWord) : (s.present ws).tick = s.tick := rfl

@[simp] theorem takeResponse_cipher (s : State) : (takeResponse s).cipher = s.cipher := by
  unfold takeResponse; split <;> rfl
@[simp] theorem takeResponse_phase (s : State) : (takeResponse s).phase = s.phase := by
  unfold takeResponse; split <;> rfl
@[simp] theorem takeResponse_wcnt (s : State) : (takeResponse s).wcnt = s.wcnt := by
  unfold takeResponse; split <;> rfl
@[simp] theorem takeResponse_keybuf (s : State) : (takeResponse s).keybuf = s.keybuf := by
  unfold takeResponse; split <;> rfl
@[simp] theorem takeResponse_keycnt (s : State) : (takeResponse s).keycnt = s.keycnt := by
  unfold takeResponse; split <;> rfl
@[simp] theorem takeResponse_ivbuf (s : State) : (takeResponse s).ivbuf = s.ivbuf := by
  unfold takeResponse; split <;> rfl
@[simp] theorem takeResponse_ivcnt (s : State) : (takeResponse s).ivcnt = s.ivcnt := by
  unfold takeResponse; split <;> rfl
@[simp] theorem takeResponse_commands (s : State) : (takeResponse s).commands = s.commands := by
  unfold takeResponse; split <;> rfl
@[simp] theorem takeResponse_responses (s : State) : (takeResponse s).responses = s.responses := by
  unfold takeResponse; split <;> rfl
@[simp] theorem takeResponse_taken (s : State) : (takeResponse s).taken = if s.taken < s.responses.length then s.taken + 1 else s.taken := by
  unfold takeResponse; split <;> rfl
@[simp] theorem takeResponse_respCap (s : State) : (takeResponse s).respCap = s.respCap := by
  unfold takeResponse; split <;> rfl
@[simp] theorem takeResponse_schedule (s : State) : (takeResponse s).schedule = s.schedule := by
  unfold takeResponse; split <;> rfl
@[simp] theorem takeResponse_tick (s : State) : (takeResponse s).tick = s.tick := by
  unfold takeResponse; split <;> rfl

@[simp] theorem State.reset_cipher : State.reset.cipher = Cipher.zero := rfl
@[simp] theorem State.reset_phase : State.reset.phase = .idle := rfl
@[simp] theorem State.reset_wcnt : State.reset.wcnt = 0#11 := rfl
@[simp] theorem State.reset_keybuf : State.reset.keybuf = TenBytes.zero := rfl
@[simp] theorem State.reset_keycnt : State.reset.keycnt = 0#4 := rfl
@[simp] theorem State.reset_ivbuf : State.reset.ivbuf = TenBytes.zero := rfl
@[simp] theorem State.reset_ivcnt : State.reset.ivcnt = 0#4 := rfl
@[simp] theorem State.reset_commands : State.reset.commands = [] := rfl
@[simp] theorem State.reset_responses : State.reset.responses = [] := rfl
@[simp] theorem State.reset_taken : State.reset.taken = 0 := rfl
@[simp] theorem State.reset_respCap : State.reset.respCap = none := rfl
@[simp] theorem State.reset_schedule : State.reset.schedule = [] := rfl
@[simp] theorem State.reset_tick : State.reset.tick = 0 := rfl

end Sys2Proof.Machine
end

