-- ==== Sys2Proof/Laws/Ops.lean ====
section
/-! SUPPORT. What each shared operation can do, said once: the model faults, back-pressure, the phase checks, and the commands over them. -/

namespace Sys2Proof.Machine

/-- The states the spec allows are those with PHASE ≠ 3 and the counters in their ranges (R27 to R30, R214). -/
theorem violation_eq_none_iff (s : State) :
    s.violation = none ↔
      s.phase ≠ .reserved ∧ s.wcnt.toNat ≤ 1152 ∧ s.keycnt.toNat ≤ 10 ∧ s.ivcnt.toNat ≤ 10 := by
  unfold State.violation
  split
  · simp_all
  · split
    · rename_i h; simp only [BitVec.lt_def] at h; simp at h ⊢; omega
    · split
      · rename_i h; simp only [BitVec.lt_def] at h; simp at h ⊢; omega
      · split
        · rename_i h; simp only [BitVec.lt_def] at h; simp at h ⊢; omega
        · simp_all [BitVec.lt_def]

/-- A guarded operation answers a next state exactly where the spec allows the state and the operation does. -/
theorem guarded_eq_next_iff (s t : State) (k : State → Result) :
    guarded s k = .next t ↔ s.violation = none ∧ k s = .next t := by
  unfold guarded; split <;> simp_all

theorem guarded_of_none {s : State} (h : s.violation = none) (k : State → Result) : guarded s k = k s := by
  simp [guarded, h]

theorem guarded_of_some {s : State} {f : Fault} (h : s.violation = some f) (k : State → Result) :
    guarded s k = .fault f := by
  simp [guarded, h]

/-- An accepting state performs the command. -/
theorem perform_of_accepting {s : State} (h : s.accepting) (k : State → Result) : perform s k = k s := by
  simp [perform, guarded, h.1, h.2]

/-- A full response channel holds the command (D23). -/
theorem perform_of_full {s : State} (h : s.violation = none) (hf : s.channelFull = true) (k : State → Result) :
    perform s k = .next s := by
  simp [perform, guarded, h, hf, hold]

/-- What `perform` can answer: the held state, or what the command answers. -/
theorem perform_eq_next {s t : State} {k : State → Result} (h : perform s k = .next t) :
    s.violation = none ∧ (s.channelFull = true ∧ t = s ∨ s.channelFull = false ∧ k s = .next t) := by
  unfold perform at h
  rw [guarded_eq_next_iff] at h
  refine ⟨h.1, ?_⟩
  cases hf : s.channelFull <;> simp_all [hold]

theorem accepting_iff (s : State) : s.accepting ↔ s.violation = none ∧ s.channelFull = false := Iff.rfl

@[simp] theorem channelFull_of_unbounded {s : State} (h : s.respCap = none) : s.channelFull = false := by
  simp [State.channelFull, h]

/-- What `whenReady` can answer in a state with PHASE ≠ 3. -/
theorem whenReady_eq_next {s t : State} {k : State → Result} (h : whenReady s k = .next t) :
    s.phase = .idle ∧ t = respond .notInitialized [] s ∨ s.phase = .warmup ∧ t = s ∨
      s.phase = .ready ∧ k s = .next t := by
  unfold whenReady at h
  split at h <;> simp_all [raise, hold]

@[simp] theorem whenReady_of_idle {s : State} (h : s.phase = .idle) (k : State → Result) :
    whenReady s k = .next (respond .notInitialized [] s) := by simp [whenReady, h, raise]

@[simp] theorem whenReady_of_warmup {s : State} (h : s.phase = .warmup) (k : State → Result) :
    whenReady s k = .next s := by simp [whenReady, h, hold]

@[simp] theorem whenReady_of_ready {s : State} (h : s.phase = .ready) (k : State → Result) :
    whenReady s k = k s := by simp [whenReady, h]

/-- Staging keeps the count at 10 or below and counts up to it (R29). -/
theorem stageCnt_toNat (cnt : BitVec 4) (h : cnt.toNat ≤ 10) : (stageCnt cnt).toNat = min 10 (cnt.toNat + 1) := by
  unfold stageCnt
  split
  · rename_i hlt
    simp only [BitVec.lt_def] at hlt
    simp at hlt
    simp [BitVec.toNat_add]; omega
  · rename_i hlt
    simp only [BitVec.lt_def] at hlt
    simp at hlt
    omega

/-- Staging writes the byte at the count, and nothing once the count is 10 (R140, R141). -/
theorem stageBuf_getElem (data : Byte) (buf : TenBytes) (cnt : BitVec 4) (i : Nat) (hi : i < 10) :
    (stageBuf data buf cnt)[i] = if i = cnt.toNat then data else buf[i] := by
  unfold stageBuf
  split
  · simp [Vector.getElem_setIfInBounds, eq_comm]
  · rename_i hlt
    simp only [BitVec.lt_def] at hlt
    have : i ≠ cnt.toNat := by simp at hlt; omega
    simp [this]

/-- The warm-up step counts without wrapping below 1152 (R28). -/
theorem wcnt_succ_toNat {w : BitVec 11} (h : w.toNat ≤ 1151) : (w + 1#11).toNat = w.toNat + 1 := by
  simp [BitVec.toNat_add]; omega

end Sys2Proof.Machine
end

