-- ==== Sys2Proof/Laws/Exec.lean ====
section
/-! SUPPORT. What each command answers in an accepting state, and what exec and step can do at all: every later proof cites these instead of unfolding a meaning. -/

namespace Sys2Proof.Machine

theorem exec_keyb_eq (data : Byte) (s : State) : exec (.keyb data) s = perform s (
    fun s => .next (respond .ok []
      { s with keybuf := stageBuf data s.keybuf s.keycnt, keycnt := stageCnt s.keycnt })) := rfl

theorem exec_ivb_eq (data : Byte) (s : State) : exec (.ivb data) s = perform s (
    fun s => .next (respond .ok []
      { s with ivbuf := stageBuf data s.ivbuf s.ivcnt, ivcnt := stageCnt s.ivcnt })) := rfl

theorem exec_init_eq (s : State) : exec (.init) s = perform s (
    fun s => .next (respond .ok [] (loadSession s))) := rfl

theorem exec_gen_eq (n : Int) (s : State) : exec (.gen n) s = perform s (
    fun s =>
      if n < 0 then raise .invalidArgument Config.lengthBytesName s
      else whenReady s fun s =>
        .next (respond .ok (s.cipher.draw n.toNat).1 { s with cipher := (s.cipher.draw n.toNat).2 })) := rfl

theorem exec_xorb_eq (data : Byte) (s : State) : exec (.xorb data) s = perform s (
    fun s => whenReady s fun s =>
      .next (respond .ok [data ^^^ s.cipher.nextByte.1] { s with cipher := s.cipher.nextByte.2 })) := rfl

theorem exec_stat_eq (s : State) : exec (.stat) s = perform s (
    fun s => .next (respond .ok s.statusBytes s)) := rfl

theorem exec_keyb_of_accepting {s : State} (h : s.accepting) (data : Byte) :
    exec (.keyb data) s = .next (respond .ok []
      { s with keybuf := stageBuf data s.keybuf s.keycnt, keycnt := stageCnt s.keycnt }) := by
  rw [exec_keyb_eq, perform_of_accepting h]

theorem exec_ivb_of_accepting {s : State} (h : s.accepting) (data : Byte) :
    exec (.ivb data) s = .next (respond .ok []
      { s with ivbuf := stageBuf data s.ivbuf s.ivcnt, ivcnt := stageCnt s.ivcnt }) := by
  rw [exec_ivb_eq, perform_of_accepting h]

theorem exec_init_of_accepting {s : State} (h : s.accepting) :
    exec .init s = .next (respond .ok [] (loadSession s)) := by
  rw [exec_init_eq, perform_of_accepting h]

theorem exec_stat_of_accepting {s : State} (h : s.accepting) :
    exec .stat s = .next (respond .ok s.statusBytes s) := by
  rw [exec_stat_eq, perform_of_accepting h]

theorem exec_gen_neg_of_accepting {s : State} (h : s.accepting) {n : Int} (hn : n < 0) :
    exec (.gen n) s = .next (respond .invalidArgument Config.lengthBytesName s) := by
  rw [exec_gen_eq, perform_of_accepting h, if_pos hn, raise]

theorem exec_gen_of_accepting {s : State} (h : s.accepting) {n : Int} (hn : 0 ≤ n) :
    exec (.gen n) s = whenReady s fun s =>
      .next (respond .ok (s.cipher.draw n.toNat).1 { s with cipher := (s.cipher.draw n.toNat).2 }) := by
  rw [exec_gen_eq, perform_of_accepting h, if_neg (by omega)]

theorem exec_xorb_of_accepting {s : State} (h : s.accepting) (data : Byte) :
    exec (.xorb data) s = whenReady s fun s =>
      .next (respond .ok [data ^^^ s.cipher.nextByte.1] { s with cipher := s.cipher.nextByte.2 }) := by
  rw [exec_xorb_eq, perform_of_accepting h]

theorem execIllegal_of_accepting {s : State} (h : s.accepting) :
    execIllegal s = .next (respond .illegalCommand [] s) :=
  perform_of_accepting h _

/-- What a command can do when it answers a next state: it is held and nothing changes, or it is performed in one of
the ways of R140 to R180, in an accepting state. -/
theorem exec_cases {i : Instr} {s t : State} (h : exec i s = .next t) :
    s.violation = none ∧ (t = s ∨ s.channelFull = false ∧
      ((∃ data, i = .keyb data ∧ t = respond .ok []
          { s with keybuf := stageBuf data s.keybuf s.keycnt, keycnt := stageCnt s.keycnt }) ∨
       (∃ data, i = .ivb data ∧ t = respond .ok []
          { s with ivbuf := stageBuf data s.ivbuf s.ivcnt, ivcnt := stageCnt s.ivcnt }) ∨
       (i = .init ∧ t = respond .ok [] (loadSession s)) ∨
       (∃ n, i = .gen n ∧ n < 0 ∧ t = respond .invalidArgument Config.lengthBytesName s) ∨
       (∃ n, i = .gen n ∧ 0 ≤ n ∧ s.phase = .idle ∧ t = respond .notInitialized [] s) ∨
       (∃ n, i = .gen n ∧ 0 ≤ n ∧ s.phase = .ready ∧ t = respond .ok (s.cipher.draw n.toNat).1
          { s with cipher := (s.cipher.draw n.toNat).2 }) ∨
       (∃ data, i = .xorb data ∧ s.phase = .idle ∧ t = respond .notInitialized [] s) ∨
       (∃ data, i = .xorb data ∧ s.phase = .ready ∧ t = respond .ok [data ^^^ s.cipher.nextByte.1]
          { s with cipher := s.cipher.nextByte.2 }) ∨
       (i = .stat ∧ t = respond .ok s.statusBytes s))) := by
  cases i with
  | keyb data =>
    obtain ⟨hv, hc⟩ := perform_eq_next (exec_keyb_eq .. ▸ h)
    refine ⟨hv, hc.imp And.right fun ⟨hf, hk⟩ => ⟨hf, .inl ⟨data, rfl, ?_⟩⟩⟩
    simpa using hk.symm
  | ivb data =>
    obtain ⟨hv, hc⟩ := perform_eq_next (exec_ivb_eq .. ▸ h)
    refine ⟨hv, hc.imp And.right fun ⟨hf, hk⟩ => ⟨hf, .inr (.inl ⟨data, rfl, ?_⟩)⟩⟩
    simpa using hk.symm
  | init =>
    obtain ⟨hv, hc⟩ := perform_eq_next (exec_init_eq .. ▸ h)
    refine ⟨hv, hc.imp And.right fun ⟨hf, hk⟩ => ⟨hf, .inr (.inr (.inl ⟨rfl, ?_⟩))⟩⟩
    simpa using hk.symm
  | gen n =>
    obtain ⟨hv, hc⟩ := perform_eq_next (exec_gen_eq .. ▸ h)
    refine ⟨hv, ?_⟩
    obtain hc | ⟨hf, hk⟩ := hc
    · exact .inl hc.2
    · split at hk
      · rename_i hn
        exact .inr ⟨hf, by simp_all [raise]⟩
      · rename_i hn
        obtain ⟨hp, ht⟩ | ⟨hp, ht⟩ | ⟨hp, ht⟩ := whenReady_eq_next hk
        · exact .inr ⟨hf, by simp_all⟩
        · exact .inl ht
        · exact .inr ⟨hf, by simp_all⟩
  | xorb data =>
    obtain ⟨hv, hc⟩ := perform_eq_next (exec_xorb_eq .. ▸ h)
    refine ⟨hv, ?_⟩
    obtain hc | ⟨hf, hk⟩ := hc
    · exact .inl hc.2
    · obtain ⟨hp, ht⟩ | ⟨hp, ht⟩ | ⟨hp, ht⟩ := whenReady_eq_next hk
      · exact .inr ⟨hf, by simp_all⟩
      · exact .inl ht
      · exact .inr ⟨hf, by simp_all⟩
  | stat =>
    obtain ⟨hv, hc⟩ := perform_eq_next (exec_stat_eq .. ▸ h)
    exact ⟨hv, hc.imp And.right fun ⟨hf, hk⟩ => ⟨hf, by simp_all⟩⟩

/-- A command turn: nothing to perform, a command, or an Illegal word (R51, R65). -/
theorem commandTurn_cases {s t : State} (h : commandTurn s = .next t) :
    (s.commands = [] ∧ s.violation = none ∧ t = s) ∨
    (∃ w cs i, s.commands = w :: cs ∧ decode w = .command i ∧ exec i s = .next t) ∨
    (∃ w cs why, s.commands = w :: cs ∧ decode w = .illegal why ∧ execIllegal s = .next t) := by
  unfold commandTurn at h
  split at h
  · rw [guarded_eq_next_iff] at h
    obtain ⟨hv, h⟩ := h
    cases h
    left; simp_all
  · split at h
    · exact .inr (.inl ⟨_, _, _, by assumption, by assumption, h⟩)
    · exact .inr (.inr ⟨_, _, _, by assumption, by assumption, h⟩)

/-- A warm-up turn: a WSTEP in WARMUP, else nothing (R143). -/
theorem warmupTurn_cases {s t : State} (h : warmupTurn s = .next t) :
    s.violation = none ∧ (s.phase = .warmup ∧ t = wstep s ∨ s.phase ≠ .warmup ∧ t = s) := by
  unfold warmupTurn at h
  rw [guarded_eq_next_iff] at h
  refine ⟨h.1, ?_⟩
  obtain ⟨-, h⟩ := h
  split at h <;> simp_all

/-- In a state the spec allows, a reset turn is the reset event (R230). -/
theorem runTurn_reset_of_allowed {s : State} (h : s.violation = none) : runTurn .reset s = .next (resetBlock s) := by
  rw [runTurn, guarded_of_none h]

/-- A reset turn that answers a next state: the reset event, and the state was one the spec allows (R214, R230). -/
theorem resetTurn_cases {s t : State} (h : runTurn .reset s = .next t) : s.violation = none ∧ t = resetBlock s := by
  rw [runTurn, guarded_eq_next_iff] at h
  exact ⟨h.1, by simpa using h.2.symm⟩

/-- The host's turn: one response more consumed, if there is one (R192). -/
theorem takeTurn_cases {s t : State} (h : runTurn .take s = .next t) : s.violation = none ∧ t = takeResponse s := by
  rw [runTurn, guarded_eq_next_iff] at h
  exact ⟨h.1, by simpa using h.2.symm⟩

/-- Which turn a step runs, and on which state: the next one fixed, or the default of an empty schedule (R52). -/
theorem step_eq_runTurn (s : State) : ∃ turn u, step s = runTurn turn u ∧
    (s.schedule = turn :: u.schedule ∧ u = { s with schedule := u.schedule } ∨
      s.schedule = [] ∧ (turn = .command ∨ turn = .warmup) ∧ (u = s ∨ u = { s with tick := s.tick + 1 })) := by
  unfold step advance
  split
  · rename_i t rest hs
    exact ⟨t, { s with schedule := rest }, rfl, .inl ⟨hs, rfl⟩⟩
  · rename_i hs
    split
    · split
      · refine ⟨_, _, rfl, .inr ⟨hs, ?_, .inr rfl⟩⟩
        cases Config.warmupFirst s.tick <;> simp
      · exact ⟨_, _, rfl, .inr ⟨hs, .inr rfl, .inl rfl⟩⟩
    · exact ⟨_, _, rfl, .inr ⟨hs, .inl rfl, .inl rfl⟩⟩

end Sys2Proof.Machine
end

