-- ==== Sys2Proof/Laws/Forms.lean ====
section
/-! SUPPORT. One lemma per field for the two forms the statements about steps use: a state with a named next turn, and one with a word at the head of its stream. -/

namespace Sys2Proof.Machine

@[simp] theorem State.giveTurn_cipher (s : State) (turn : Turn) : (s.giveTurn turn).cipher = s.cipher := rfl
@[simp] theorem State.giveTurn_phase (s : State) (turn : Turn) : (s.giveTurn turn).phase = s.phase := rfl
@[simp] theorem State.giveTurn_wcnt (s : State) (turn : Turn) : (s.giveTurn turn).wcnt = s.wcnt := rfl
@[simp] theorem State.giveTurn_keybuf (s : State) (turn : Turn) : (s.giveTurn turn).keybuf = s.keybuf := rfl
@[simp] theorem State.giveTurn_keycnt (s : State) (turn : Turn) : (s.giveTurn turn).keycnt = s.keycnt := rfl
@[simp] theorem State.giveTurn_ivbuf (s : State) (turn : Turn) : (s.giveTurn turn).ivbuf = s.ivbuf := rfl
@[simp] theorem State.giveTurn_ivcnt (s : State) (turn : Turn) : (s.giveTurn turn).ivcnt = s.ivcnt := rfl
@[simp] theorem State.giveTurn_commands (s : State) (turn : Turn) : (s.giveTurn turn).commands = s.commands := rfl
@[simp] theorem State.giveTurn_responses (s : State) (turn : Turn) : (s.giveTurn turn).responses = s.responses := rfl
@[simp] theorem State.giveTurn_taken (s : State) (turn : Turn) : (s.giveTurn turn).taken = s.taken := rfl
@[simp] theorem State.giveTurn_respCap (s : State) (turn : Turn) : (s.giveTurn turn).respCap = s.respCap := rfl
@[simp] theorem State.giveTurn_schedule (s : State) (turn : Turn) : (s.giveTurn turn).schedule = turn :: s.schedule := rfl
@[simp] theorem State.giveTurn_tick (s : State) (turn : Turn) : (s.giveTurn turn).tick = s.tick := rfl

@[simp] theorem State.withHead_cipher (s : State) (w : CmdWord) : (s.withHead w).cipher = s.cipher := rfl
@[simp] theorem State.withHead_phase (s : State) (w : CmdWord) : (s.withHead w).phase = s.phase := rfl
@[simp] theorem State.withHead_wcnt (s : State) (w : CmdWord) : (s.withHead w).wcnt = s.wcnt := rfl
@[simp] theorem State.withHead_keybuf (s : State) (w : CmdWord) : (s.withHead w).keybuf = s.keybuf := rfl
@[simp] theorem State.withHead_keycnt (s : State) (w : CmdWord) : (s.withHead w).keycnt = s.keycnt := rfl
@[simp] theorem State.withHead_ivbuf (s : State) (w : CmdWord) : (s.withHead w).ivbuf = s.ivbuf := rfl
@[simp] theorem State.withHead_ivcnt (s : State) (w : CmdWord) : (s.withHead w).ivcnt = s.ivcnt := rfl
@[simp] theorem State.withHead_commands (s : State) (w : CmdWord) : (s.withHead w).commands = w :: s.commands := rfl
@[simp] theorem State.withHead_responses (s : State) (w : CmdWord) : (s.withHead w).responses = s.responses := rfl
@[simp] theorem State.withHead_taken (s : State) (w : CmdWord) : (s.withHead w).taken = s.taken := rfl
@[simp] theorem State.withHead_respCap (s : State) (w : CmdWord) : (s.withHead w).respCap = s.respCap := rfl
@[simp] theorem State.withHead_schedule (s : State) (w : CmdWord) : (s.withHead w).schedule = s.schedule := rfl
@[simp] theorem State.withHead_tick (s : State) (w : CmdWord) : (s.withHead w).tick = s.tick := rfl

/-- Neither form decides whether the spec allows the state. -/
@[simp] theorem State.giveTurn_violation (s : State) (turn : Turn) : (s.giveTurn turn).violation = s.violation := rfl

@[simp] theorem State.withHead_violation (s : State) (w : CmdWord) : (s.withHead w).violation = s.violation := rfl

/-- Neither form decides whether the response channel has room. -/
@[simp] theorem State.giveTurn_channelFull (s : State) (turn : Turn) :
    (s.giveTurn turn).channelFull = s.channelFull := rfl

@[simp] theorem State.withHead_channelFull (s : State) (w : CmdWord) :
    (s.withHead w).channelFull = s.channelFull := rfl

end Sys2Proof.Machine
end

