-- ==== Sys2Proof/Laws/Words.lean ====
section
/-! SUPPORT. The fields of a packed word, and a word from its fields (spec/30_encoding.md R60 to R62). -/

namespace Sys2Proof.Machine

/-- A packed word keeps its OPND in the low 24 bits and its OPC above. -/
theorem packWord_getLsbD (opc : BitVec 8) (opnd : BitVec 24) (k : Nat) :
    (packWord opc opnd).getLsbD k = if k < 24 then opnd.getLsbD k else opc.getLsbD (k - 24) := by
  unfold packWord
  rw [BitVec.getLsbD_append]

@[simp] theorem opcField_packWord (opc : BitVec 8) (opnd : BitVec 24) : opcField (packWord opc opnd) = opc := by
  apply BitVec.eq_of_getLsbD_eq
  intro k hk
  rw [opcField, BitVec.getLsbD_extractLsb', packWord_getLsbD, if_neg (by omega)]
  simp [hk]

@[simp] theorem opndField_packWord (opc : BitVec 8) (opnd : BitVec 24) : opndField (packWord opc opnd) = opnd := by
  apply BitVec.eq_of_getLsbD_eq
  intro k hk
  rw [opndField, BitVec.getLsbD_extractLsb', packWord_getLsbD, if_pos (by omega)]
  simp [hk]

@[simp] theorem dataField_packWord (opc : BitVec 8) (data : Byte) :
    dataField (packWord opc (byteOpnd data)) = data := by
  apply BitVec.eq_of_getLsbD_eq
  intro k hk
  rw [dataField, BitVec.getLsbD_extractLsb', packWord_getLsbD, if_pos (by omega)]
  simp [byteOpnd, hk]; omega

@[simp] theorem reservedField_packWord (opc : BitVec 8) (data : Byte) :
    reservedField (packWord opc (byteOpnd data)) = 0#16 := by
  apply BitVec.eq_of_getLsbD_eq
  intro k hk
  rw [reservedField, BitVec.getLsbD_extractLsb', packWord_getLsbD, if_pos (by omega)]
  simp [byteOpnd]

/-- A word is its two fields (R60). -/
theorem packWord_fields (w : CmdWord) : packWord (opcField w) (opndField w) = w := by
  apply BitVec.eq_of_getLsbD_eq
  intro k hk
  rw [packWord_getLsbD]
  split
  · simp_all [opndField]
  · rename_i h
    rw [opcField, BitVec.getLsbD_extractLsb', show 24 + (k - 24) = k by omega]
    simp only [show k - 24 < 8 by omega, decide_true, Bool.true_and]

/-- A form B word with zero reserved bits has its data byte for OPND (R62). -/
theorem byteOpnd_dataField {w : CmdWord} (h : reservedField w = 0#16) : byteOpnd (dataField w) = opndField w := by
  apply BitVec.eq_of_getLsbD_eq
  intro k hk
  have hr := congrArg (fun x => BitVec.getLsbD x (k - 8)) h
  rw [opndField, byteOpnd, dataField]
  simp only [BitVec.getLsbD_extractLsb', BitVec.getLsbD_setWidth]
  by_cases h8 : k < 8
  · simp [h8, hk]
  · simp only [reservedField, BitVec.getLsbD_extractLsb', show k - 8 < 16 by omega, show 8 + (k - 8) = k by omega,
      decide_true, Bool.true_and, BitVec.getLsbD_zero] at hr
    simp [h8, hr]

/-- A GEN is well-formed exactly in the range of its 24-bit field (R63). -/
theorem wellFormed_gen_iff (n : Int) : (Instr.gen n).wellFormed = true ↔ -8388608 ≤ n ∧ n ≤ 8388607 := by
  unfold Instr.wellFormed
  rw [Bool.and_eq_true, decide_eq_true_iff, decide_eq_true_iff]

/-- sext_24 answers a number in the range of its field (R63). -/
theorem lengthField_range (w : CmdWord) : -8388608 ≤ lengthField w ∧ lengthField w ≤ 8388607 := by
  have h1 := BitVec.le_toInt (opndField w)
  have h2 := BitVec.toInt_lt (x := opndField w)
  unfold lengthField
  norm_num at h1 h2
  omega

/-- A length in range comes back from its field (R63, R70). -/
theorem toInt_lengthOpnd {n : Int} (h1 : -8388608 ≤ n) (h2 : n ≤ 8388607) : (lengthOpnd n).toInt = n := by
  unfold lengthOpnd
  rw [BitVec.toInt_ofInt, Int.bmod]
  norm_num
  omega

end Sys2Proof.Machine
end

