-- ==== Sys2Proof/Laws/PerInstr.lean ====
section
/-! SUPPORT. Statements about each command as syntax: the family EncodedRow says that a command's word lies in its row of the opcode map (spec/30_encoding.md R64). -/

namespace Sys2Proof.Laws.EncodedRow

/-- The word of `i` is selected by its own row: (w & mask) = match (R64). -/
def Statement (i : Instr) : Prop := encode i &&& rowMask i = rowMatch i

/-- Every byte-form word under the mask of form B is its OPC and zeros. -/
theorem byte_row (opc data : BitVec 8) :
    Machine.packWord opc (Machine.byteOpnd data) &&& 0xFFFFFF00#32 = Machine.packWord opc 0#24 := by
  apply BitVec.eq_of_getLsbD_eq
  intro k hk
  rw [BitVec.getLsbD_and, Machine.packWord_getLsbD, Machine.packWord_getLsbD]
  have hm : (0xFFFFFF00#32).getLsbD k = decide (8 ≤ k) := by
    revert k; decide
  rw [hm]
  by_cases h8 : 8 ≤ k
  · simp [Machine.byteOpnd, h8]
  · have h24 : k < 24 := by omega
    simp [h8, h24]

theorem keyb (data : Byte) : Statement (.keyb data) := byte_row 0x01#8 data

theorem ivb (data : Byte) : Statement (.ivb data) := byte_row 0x02#8 data

theorem init : Statement .init := by unfold Statement; decide

theorem gen (n : Int) : Statement (.gen n) := by
  unfold Statement
  show Machine.packWord 0x04#8 (Machine.lengthOpnd n) &&& 0xFF000000#32 = 0x04000000#32
  apply BitVec.eq_of_getLsbD_eq
  intro k hk
  rw [BitVec.getLsbD_and, Machine.packWord_getLsbD]
  have hm : (0xFF000000#32).getLsbD k = decide (24 ≤ k) := by
    revert k; decide
  have hr : (0x04000000#32).getLsbD k = if k < 24 then false else (0x04#8).getLsbD (k - 24) := by
    revert k; decide
  rw [hm, hr]
  by_cases h24 : k < 24
  · simp [h24]
  · simp [h24, Nat.le_of_not_lt h24]

theorem xorb (data : Byte) : Statement (.xorb data) := byte_row 0x05#8 data

theorem stat : Statement .stat := by unfold Statement; decide

end Sys2Proof.Laws.EncodedRow
end

