-- ==== Sys2Proof/Laws/Run.lean ====
section
/-! SUPPORT. Forced turns, and how runs of the machine compose. -/

namespace Sys2Proof.Machine

/-- A turn the schedule names is taken as it stands (R52). -/
@[simp] theorem step_giveTurn (s : State) (turn : Turn) : step (s.giveTurn turn) = runTurn turn s := rfl

/-- A fixed first turn, read off the schedule. -/
theorem step_of_schedule {s : State} {turn : Turn} {rest : List Turn} (h : s.schedule = turn :: rest) :
    step s = runTurn turn { s with schedule := rest } := by
  simp [step, advance, h]

/-- A word at the head leaves the state as ready to perform a command as it was. -/
theorem withHead_accepting {s : State} (h : s.accepting) (w : CmdWord) : (s.withHead w).accepting := h

/-- A run of no steps. -/
@[simp] theorem run_zero (s : State) : Host.Core.run Sys2Proof.core 0 s = .next s := rfl

/-- A run whose first step answers a next state. -/
theorem run_succ_of_step {s t : State} (h : step s = .next t) (k : Nat) :
    Host.Core.run Sys2Proof.core (k + 1) s = Host.Core.run Sys2Proof.core k t := by
  have e := Host.Core.run.eq_2 Sys2Proof.core s k
  rw [show Sys2Proof.core.step s = .next t from h] at e
  exact e

/-- Runs of any machine compose. -/
theorem machine_run_trans (M : Host.Core) {j k : Nat} {s t u : M.State} (h1 : M.run j s = .next t)
    (h2 : M.run k t = .next u) : M.run (j + k) s = .next u := by
  induction j generalizing s with
  | zero =>
    cases h1
    rwa [Nat.zero_add]
  | succ j ih =>
    rw [Nat.succ_add]
    simp only [Host.Core.run] at h1 ⊢
    cases hs : M.step s <;> simp only [hs] at h1 ⊢
    · exact ih h1
    · cases h1
    · cases h1

/-- Runs compose. -/
theorem run_trans {j k : Nat} {s t u : State} (h1 : Host.Core.run Sys2Proof.core j s = .next t)
    (h2 : Host.Core.run Sys2Proof.core k t = .next u) : Host.Core.run Sys2Proof.core (j + k) s = .next u :=
  machine_run_trans Sys2Proof.core h1 h2

/-- A warm-up turn in WARMUP is a WSTEP (R143). -/
theorem warmupTurn_of_warmup {s : State} (hv : s.violation = none) (hp : s.phase = .warmup) :
    warmupTurn s = .next (wstep s) := by
  rw [warmupTurn, guarded_of_none hv, if_pos hp]

/-- A warm-up turn outside WARMUP changes nothing (R143). -/
theorem warmupTurn_of_not_warmup {s : State} (hv : s.violation = none) (hp : s.phase ≠ .warmup) :
    warmupTurn s = .next s := by
  rw [warmupTurn, guarded_of_none hv, if_neg hp]

/-- A command turn performs the command the head word decodes to. -/
theorem commandTurn_of_command {s : State} {w : CmdWord} {cs : List CmdWord} {i : Instr}
    (hc : s.commands = w :: cs) (hd : decode w = .command i) : commandTurn s = exec i s := by
  simp [commandTurn, hc, hd]

/-- A command turn performs an Illegal head word as ILLEGAL_COMMAND (R65). -/
theorem commandTurn_of_illegal {s : State} {w : CmdWord} {cs : List CmdWord} {why : IllegalReason}
    (hc : s.commands = w :: cs) (hd : decode w = .illegal why) : commandTurn s = execIllegal s := by
  simp [commandTurn, hc, hd]

end Sys2Proof.Machine
end

