-- ==== Sys2Proof/Tests/Slice0.lean ====
section
/-! SUPPORT. The model's own tests: the well-formedness smoke, decoding of words written out from the spec, single steps against the vectors of spec/95_test_vectors.md (their ids stand beside the tests), and a witness for the hypotheses of every statement that has any. -/

namespace Sys2Proof.Tests

open Sys2Proof Sys2Proof.Machine

-- The kernel evaluations below run one after the other: side by side, each would hold a thread of its own.
set_option Elab.async false

/-! ## Well-formedness -/

/-- R63: the first length above the range and the first below it are refused, its two ends are not. -/
theorem test_wellFormed_gen :
    (Instr.gen 8388608).wellFormed = false ∧ (Instr.gen (-8388609)).wellFormed = false ∧
    (Instr.gen 8388607).wellFormed = true ∧ (Instr.gen (-8388608)).wellFormed = true := by decide

/-! ## Decoding and encoding: words of R72 and of the table V-ENC -/

/-- R72: KEYB 0x05. OPC 00000001, sixteen zeros, DATA 00000101. -/
theorem test_decode_keyb : decode 0b00000001_00000000_00000000_00000101#32 = .command (.keyb 0x05#8) := by decide +kernel

/-- R72: IVB 0xAA. -/
theorem test_decode_ivb : decode 0b00000010_00000000_00000000_10101010#32 = .command (.ivb 0xAA#8) := by decide +kernel

/-- R72: INIT. -/
theorem test_decode_init : decode 0b00000011_00000000_00000000_00000000#32 = .command .init := by decide +kernel

/-- R72: GEN 100 and GEN -8388608, and V-ENC-11: GEN -2. -/
theorem test_decode_gen :
    decode 0b00000100_00000000_00000000_01100100#32 = .command (.gen 100) ∧
    decode 0b00000100_10000000_00000000_00000000#32 = .command (.gen (-8388608)) ∧
    decode 0b00000100_11111111_11111111_11111110#32 = .command (.gen (-2)) := by decide +kernel

/-- R72: XORB 0x41. -/
theorem test_decode_xorb : decode 0b00000101_00000000_00000000_01000001#32 = .command (.xorb 0x41#8) := by decide +kernel

/-- R72: STAT. -/
theorem test_decode_stat : decode 0b00000110_00000000_00000000_00000000#32 = .command .stat := by decide +kernel

/-- V-ENC-1 to V-ENC-3: opcodes outside the map. -/
theorem test_decode_undefined_opcode :
    decode 0x00000000#32 = .illegal .undefinedOpcode ∧ decode 0x07000000#32 = .illegal .undefinedOpcode ∧
    decode 0xFF000000#32 = .illegal .undefinedOpcode := by decide +kernel

/-- V-ENC-4 to V-ENC-6 and V-XORB-5: a reserved operand bit is set. -/
theorem test_decode_reserved_bits :
    decode 0x01000100#32 = .illegal .reservedBits ∧ decode 0x03000001#32 = .illegal .reservedBits ∧
    decode 0x06800000#32 = .illegal .reservedBits ∧ decode 0x05000100#32 = .illegal .reservedBits := by decide +kernel

/-- R72: the encoded examples, read from left to right. -/
theorem test_encode :
    encode (.keyb 0x05#8) = 0x01000005#32 ∧ encode (.ivb 0xAA#8) = 0x020000AA#32 ∧ encode .init = 0x03000000#32 ∧
    encode (.gen 8388607) = 0x047FFFFF#32 ∧ encode (.gen (-1)) = 0x04FFFFFF#32 ∧
    encode (.xorb 0x41#8) = 0x05000041#32 ∧ encode .stat = 0x06000000#32 := by decide +kernel

/-- The host's numbering: one 32-bit word, and bits above a shorter row are zero. -/
theorem test_decodeTableWord :
    decodeTableWord 32 0x05000041 = some (.xorb 0x41#8) ∧ decodeTableWord 32 0x07000000 = none := by decide +kernel

/-! ## Functional level -/

/-- V-NORM-1, V-NORM-2 and V-NORM-4. -/
theorem test_normalize :
    normalizeBuf [] = #v[0, 0, 0, 0, 0, 0, 0, 0, 0, 0] ∧
    normalizeBuf [1, 2, 3, 4, 5] = #v[1, 2, 3, 4, 5, 0, 0, 0, 0, 0] ∧
    normalizeBuf [1, 2, 3, 4, 5, 6, 7, 8, 9, 10, 11, 12] = #v[1, 2, 3, 4, 5, 6, 7, 8, 9, 10] := by decide +kernel

/-- V-BIT-1 to V-BIT-7. -/
theorem test_bit :
    [0, 1, 2, 7, 8].map (bitOf [0x05#8]) = [true, false, true, false, false] ∧
    [15, 7].map (bitOf [0x00#8, 0x80#8]) = [true, false] := by decide +kernel

/-- V-INIT-4. -/
theorem test_cipherInit :
    (cipherInit #v[0x11, 0x12, 0x13, 0x14, 0x15, 0x16, 0x17, 0x18, 0x19, 0x1A]
      #v[0xAA, 0xBB, 0xCC, 0, 0, 0, 0, 0, 0, 0]).int =
      ⟨0x1A191817161514131211, 0xCCBBAA, 0x7000000000000000000000000000⟩ := by decide +kernel

/-- V-STEP-4 and V-TWIN-1: every tap and AND term, in both representations. -/
theorem test_step_taps :
    Cipher.step ⟨0x0C0000120000000000000000#93, 0x620100000000000000000#84, 0x7000004000020000000000000000#111⟩ =
      (⟨0x180000240000000000000000#93, 0xC40200000000000000001#84, 0x6000008000040000000000000001#111⟩, false) ∧
    twinStep ⟨0x0C0000120000000000000000, 0x620100000000000000000, 0x7000004000020000000000000000⟩ =
      (⟨0x180000240000000000000000, 0xC40200000000000000001, 0x6000008000040000000000000001⟩, 0) := by decide +kernel

/-- V-STEP-6 and V-STEP-9: the old top bits are tapped and dropped, and which feedback enters which register. -/
theorem test_step_ends :
    Cipher.step ⟨0x100000000000000000000001#93, 0x800000000000000000001#84, 0x4000000000000000000000000001#111⟩ =
      (⟨3#93, 3#84, 3#111⟩, true) ∧
    Cipher.step ⟨0x100000000000000000000000#93, 0#84, 0#111⟩ = (⟨0#93, 1#84, 0#111⟩, true) := by decide +kernel

/-- V-WARM-1: the registers a session with an empty key and IV starts from. -/
def zeroStart : Cipher :=
  ⟨0x021B38EC692AE61D74931A85#93, 0x5697F54209902057202C5#84, 0x4956243F133FAC38E9D0C4B6FA8A#111⟩

/-- V-WARM-2: those of the key and IV 01 02 03 04 05. -/
def fiveStart : Cipher :=
  ⟨0x08AB6B48916FC6D2A0E3AFDF#93, 0xD38ADCA3B903B99C3271E#84, 0x3D13F1367F2D27D7E7F81646329C#111⟩

/-- V-PACK-1 and the first bytes of V-KS-1. -/
theorem test_packing : (zeroStart.draw 4).1 = [0xFB, 0xE0, 0xBF, 0x26] ∧ zeroStart.ksByte 1 = 0xE0#8 := by
  decide +kernel

/-- V-XOR-1 over V-WARM-2: the first four bytes of the source's message. -/
theorem test_xor_bytes :
    List.zipWith (· ^^^ ·) [0x41#8, 0x74#8, 0x74#8, 0x61#8] (fiveStart.draw 4).1 = [0xB6, 0xE4, 0x79, 0x63] := by
  decide +kernel

/-! ## Single steps -/

/-- A READY block at the start of a keystream. -/
def readyAt (cipher : Cipher) : State := { State.reset with cipher := cipher, phase := .ready, wcnt := 1152#11 }

/-- A block in WARMUP after `n` warm-up steps, the registers as they stand. -/
def warmAt (n : BitVec 11) (cipher : Cipher) : State := { State.reset with cipher := cipher, phase := .warmup, wcnt := n }

/-- The registers right after INIT with an empty key and IV (V-INIT-1). -/
def zeroLoaded : Cipher := ⟨0#93, 0#84, 0x7000000000000000000000000000#111⟩

/-- Staging as after V-KEYB-2 and V-IVB-1: a full key buffer and three IV bytes, in IDLE. -/
def staged : State :=
  { State.reset with
    keybuf := #v[0x11, 0x12, 0x13, 0x14, 0x15, 0x16, 0x17, 0x18, 0x19, 0x1A]
    keycnt := 10#4
    ivbuf := #v[0xAA, 0xBB, 0xCC, 0, 0, 0, 0, 0, 0, 0]
    ivcnt := 3#4 }

/-- A block in WARMUP whose channel holds one response and is full. -/
def blocked : State :=
  { warmAt 700#11 zeroLoaded with responses := [⟨.ok, []⟩], respCap := some 1 }

/-- Does the outcome go on, to a state that passes `p`? -/
def nextWith (r : Result) (p : State → Bool) : Bool :=
  match r with
  | .next t => p t
  | .fault _ => false
  | .refused _ => false

/-- Is `r` the last response? -/
def answers (code : Code) (payload : List Byte) (t : State) : Bool := decide (t.responses.getLast? = some ⟨code, payload⟩)

/-- V-KEYB-1, and the eleventh command of V-KEYB-2: a byte beyond the tenth is dropped and still answered. -/
theorem test_keyb :
    nextWith (exec (.keyb 0x11#8) State.reset)
      (fun t => t.keybuf = #v[0x11, 0, 0, 0, 0, 0, 0, 0, 0, 0] && t.keycnt = 1#4 && answers .ok [] t) = true ∧
    nextWith (exec (.keyb 0x1B#8) staged) (fun t => t.keybuf = staged.keybuf && t.keycnt = 10#4 && answers .ok [] t) = true := by
  decide +kernel

/-- V-IVB-1: the third of the three commands. -/
theorem test_ivb :
    nextWith (exec (.ivb 0xCC#8)
      { State.reset with ivbuf := #v[0xAA, 0xBB, 0, 0, 0, 0, 0, 0, 0, 0], ivcnt := 2#4 })
      (fun t => t.ivbuf = #v[0xAA, 0xBB, 0xCC, 0, 0, 0, 0, 0, 0, 0] && t.ivcnt = 3#4 && t.keycnt = 0#4) = true := by
  decide +kernel

/-- V-INIT-C1 and V-WSTEP-3: INIT loads and clears, and an INIT in the middle of a warm-up starts it again. -/
theorem test_init :
    nextWith (exec .init staged)
      (fun t => t.cipher.int = ⟨0x1A191817161514131211, 0xCCBBAA, 0x7000000000000000000000000000⟩ && t.keycnt = 0#4 &&
        t.ivcnt = 0#4 && t.keybuf = TenBytes.zero && t.ivbuf = TenBytes.zero && t.phase = .warmup && t.wcnt = 0#11 &&
        answers .ok [] t) = true ∧
    nextWith (exec .init (warmAt 700#11 fiveStart)) (fun t => t.wcnt = 0#11 && t.phase = .warmup && t.cipher = zeroLoaded) = true := by
  decide +kernel

/-- V-GEN-1 to V-GEN-4. -/
theorem test_gen :
    nextWith (exec (.gen 1) State.reset) (answers .notInitialized []) = true ∧
    nextWith (exec (.gen (-1)) State.reset)
      (answers .invalidArgument [0x6C, 0x65, 0x6E, 0x67, 0x74, 0x68, 0x42, 0x79, 0x74, 0x65, 0x73]) = true ∧
    nextWith (exec (.gen 0) (readyAt zeroStart)) (fun t => answers .ok [] t && t.cipher = zeroStart) = true ∧
    nextWith (exec (.gen 4) (readyAt zeroStart)) (answers .ok [0xFB, 0xE0, 0xBF, 0x26]) = true := by decide +kernel

/-- V-GEN-5 to V-GEN-7: in WARMUP a negative length is answered at once, and GEN 4 and GEN 0 are held. -/
theorem test_gen_warmup :
    nextWith (exec (.gen (-8388608)) (warmAt 700#11 zeroLoaded)) (answers .invalidArgument Config.lengthBytesName) = true ∧
    nextWith (exec (.gen 4) ((warmAt 700#11 zeroLoaded).withHead 0x04000004#32))
      (fun t => t.commands = [0x04000004#32] && t.responses = [] && t.wcnt = 700#11) = true ∧
    nextWith (exec (.gen 0) (warmAt 700#11 zeroLoaded)) (fun t => t.responses = []) = true := by decide +kernel

/-- V-XORB-1 to V-XORB-3. -/
theorem test_xorb :
    nextWith (exec (.xorb 0x00#8) State.reset) (answers .notInitialized []) = true ∧
    nextWith (exec (.xorb 0x41#8) (readyAt fiveStart)) (answers .ok [0xB6]) = true ∧
    nextWith (exec (.xorb 0x00#8) (readyAt zeroStart)) (answers .ok [0xFB]) = true := by decide +kernel

/-- V-STAT-4, V-STAT-7 and V-STAT-9. -/
theorem test_stat :
    nextWith (exec .stat (warmAt 1151#11 zeroLoaded)) (answers .ok [0x01, 0xFC, 0x11, 0x00]) = true ∧
    nextWith (exec .stat staged) (answers .ok [0xE8, 0x00, 0x00, 0x00]) = true ∧
    nextWith (exec .stat { readyAt zeroStart with keycnt := 5#4, ivcnt := 5#4 }) (answers .ok [0x56, 0x01, 0x12, 0x00]) = true := by
  decide +kernel

/-- V-ENC-4 and V-XORB-5, as steps: an illegal word is performed, before any phase check. -/
theorem test_illegal_word :
    nextWith (step ((State.reset.withHead 0x01000100#32).giveTurn .command))
      (fun t => t = { State.reset with responses := [⟨.illegalCommand, []⟩] }) = true ∧
    nextWith (step ((State.reset.withHead 0x05000100#32).giveTurn .command)) (answers .illegalCommand []) = true := by
  decide +kernel

/-- V-WSTEP-1: the first warm-up step after INIT with an empty key and IV. -/
theorem test_wstep :
    nextWith (step ((warmAt 0#11 zeroLoaded).giveTurn .warmup))
      (fun t => t.wcnt = 1#11 && t.cipher.int = ⟨0, 0, 0x6000000000000000000000000000⟩ && t.phase = .warmup &&
        t.responses = []) = true := by decide +kernel

/-- R144: the step that raises WCNT to 1152 ends the warm-up. -/
theorem test_wstep_last :
    nextWith (step ((warmAt 1151#11 zeroLoaded).giveTurn .warmup)) (fun t => t.wcnt = 1152#11 && t.phase = .ready) = true := by
  decide +kernel

/-- V-RESET-3: a GEN 4 held in WARMUP stays over a reset. -/
theorem test_reset_keeps_the_held_command :
    nextWith (step (((warmAt 700#11 zeroLoaded).withHead 0x04000004#32).giveTurn .reset))
      (fun t => t = State.reset.withHead 0x04000004#32) = true := by decide +kernel

/-- R52 and R205: in WARMUP a held head leaves the move to the warm-up engine. -/
theorem test_hold_lets_warmup_run :
    nextWith (step ((warmAt 700#11 zeroLoaded).withHead 0x05000000#32))
      (fun t => t.wcnt = 701#11 && t.commands = [0x05000000#32]) = true := by decide +kernel

/-- D23: a full response channel holds STAT, and the host's consuming one response makes room. -/
theorem test_back_pressure :
    nextWith (exec .stat (blocked.withHead 0x06000000#32)) (fun t => t = blocked.withHead 0x06000000#32) = true ∧
    nextWith (step (blocked.giveTurn .take)) (fun t => t.taken = 1 && !t.channelFull) = true := by decide +kernel

/-- R214: the model fault of PHASE = 3. -/
theorem test_reserved_phase_faults :
    (match exec .stat { State.reset with phase := .reserved } with
      | .fault f => decide (f = .reservedPhase)
      | .next _ => false
      | .refused _ => false) = true := by decide

/-- R214: a reset does not continue from such a state either. -/
theorem test_reset_faults_in_an_impossible_state :
    (match step ({ State.reset with keycnt := 11#4 }.giveTurn .reset) with
      | .fault f => decide (f = .keycntOutOfRange)
      | .next _ => false
      | .refused _ => false) = true := by decide

/-- The host's placement of a word: the very next step performs it, from reset (V-KEYB-1). -/
theorem test_withFetchWord :
    nextWith (step (State.reset.withFetchWord 32 0x01000011)) (fun t => t.keycnt = 1#4 && t.commands = [] && answers .ok [] t) = true := by
  decide +kernel

/-- R71: KEY is one KEYB a byte, and P2's words of XORS; GENL of 8388609 is two GENs. -/
theorem test_assemble :
    assemble [.key [0x01#8, 0x02#8], .instr .init, .xors [0x41#8], .word 0x07000000#32] =
      [0x01000001#32, 0x01000002#32, 0x03000000#32, 0x05000041#32, 0x07000000#32] ∧
    assemble [.genl 8388609] = [0x047FFFFF#32, 0x04000002#32] := by decide +kernel

/-- R190: a length below −2^23 is clamped to −8388608. -/
theorem test_generateLine : (hostGenerateWords [] [] (-9999999)) = [0x03000000#32, 0x04800000#32] := by decide +kernel

/-! ## Witnesses: for each statement with hypotheses, a state and operands that meet them all -/

theorem ready_accepting : (readyAt zeroStart).accepting := ⟨rfl, rfl⟩

theorem warm_accepting : (warmAt 700#11 zeroLoaded).accepting := ⟨rfl, rfl⟩

theorem staged_accepting : staged.accepting := ⟨rfl, rfl⟩

theorem zero_staging : StagingInv TenBytes.zero 0#4 := ⟨by decide, by decide⟩

theorem no_channel (s : State) (h1 : s.taken ≤ s.responses.length) (h2 : s.respCap = none) : s.ChannelInv :=
  ⟨h1, by simp [h2]⟩

theorem ready_inv : (readyAt zeroStart).Inv :=
  ⟨rfl, zero_staging, zero_staging, no_channel _ (Nat.le_refl 0) rfl⟩

theorem warm_inv : (warmAt 700#11 zeroLoaded).Inv := by
  refine ⟨?_, zero_staging, zero_staging, no_channel _ (Nat.le_refl 0) rfl⟩
  show (700#11).toNat ≤ 1151
  decide

theorem blocked_inv : blocked.Inv := by
  refine ⟨?_, zero_staging, zero_staging, by decide, fun cap h => ?_⟩
  · show (700#11).toNat ≤ 1151
    decide
  · cases h
    decide

theorem staged_inv : staged.Inv :=
  ⟨⟨rfl, rfl⟩, ⟨by decide, by decide⟩, ⟨by decide, by decide⟩, no_channel _ (Nat.le_refl 0) rfl⟩

theorem witness_DecodeOfEncodeGivesTheCommand :
    (Instr.gen (-8388608)).wellFormed = true ∧ (Instr.xorb 0xFF#8).wellFormed = true := by decide

theorem witness_EncodeOfDecodeGivesTheWord : decode 0x04800000#32 = .command (.gen (-8388608)) := by decide +kernel

theorem witness_OpcodeMapSelectsByMaskAndMatch :
    0x010000FF#32 &&& 0xFFFFFF00#32 = 0x01000000#32 ∧ 0x02000000#32 &&& 0xFFFFFF00#32 = 0x02000000#32 ∧
    0x03000000#32 &&& 0xFFFFFFFF#32 = 0x03000000#32 ∧ 0x04FFFFFF#32 &&& 0xFF000000#32 = 0x04000000#32 ∧
    0x050000FF#32 &&& 0xFFFFFF00#32 = 0x05000000#32 ∧ 0x06000000#32 &&& 0xFFFFFFFF#32 = 0x06000000#32 ∧
    0x04FFFFFF#32 &&& rowMask (.gen 0) = rowMatch (.gen 0) := by decide +kernel

theorem witness_OpcodeMap_no_row : ∀ i, 0x01000100#32 &&& rowMask i ≠ rowMatch i := by
  intro i
  cases i <;> simp only [rowMask, rowMatch] <;> decide

theorem witness_IllegalWordsGetTheirResponse :
    decode 0x07000000#32 = .illegal .undefinedOpcode ∧ decode 0x05000100#32 = .illegal .reservedBits ∧
    (warmAt 700#11 zeroLoaded).accepting := by
  refine ⟨?_, ?_, warm_accepting⟩ <;> decide +kernel

theorem witness_GenLengthIsSigned24Bits :
    (0x04800000#32).extractLsb' 24 8 = 0x04#8 ∧ (0x047FFFFF#32).extractLsb' 24 8 = 0x04#8 ∧
    (warmAt 700#11 zeroLoaded).accepting := by
  refine ⟨?_, ?_, warm_accepting⟩ <;> decide

theorem witness_StepRunsTheDecodedCommand :
    ((readyAt zeroStart).withHead 0x04000004#32).commands = 0x04000004#32 :: [] ∧
    decode 0x04000004#32 = .command (.gen 4) ∧ (readyAt zeroStart).schedule = [] ∧ (readyAt zeroStart).phase ≠ .warmup := by
  decide +kernel

theorem witness_StepRuns_in_warmup :
    ((warmAt 700#11 zeroLoaded).withHead 0x04000004#32).phase = .warmup ∧
    ((warmAt 700#11 zeroLoaded).withHead 0x04000004#32).holds 0x04000004#32 = true ∧
    ((warmAt 700#11 zeroLoaded).withHead 0x06000000#32).holds 0x06000000#32 = false ∧
    decodeTableWord 32 0x06000000 = some .stat := by decide +kernel

theorem witness_WarmupStepEffect :
    ((warmAt 1151#11 zeroLoaded).violation = none ∧ (warmAt 1151#11 zeroLoaded).phase = .warmup ∧
      (warmAt 1151#11 zeroLoaded).wcnt.toNat ≤ 1151) ∧
    ((readyAt zeroStart).violation = none ∧ (readyAt zeroStart).phase ≠ .warmup) ∧
    ((warmAt 700#11 zeroLoaded).accepting ∧ (warmAt 700#11 zeroLoaded).phase = .warmup) := by decide +kernel

theorem witness_WarmupTakesExactly1152Steps :
    staged.accepting ∧ ((readyAt zeroStart).violation = none ∧ (readyAt zeroStart).phase = .ready) ∧
    ((Instr.gen 4 ≠ .init) ∧ ∃ t, exec (.gen 4) (readyAt zeroStart) = .next t) :=
  ⟨staged_accepting, ⟨rfl, rfl⟩, by decide, _, rfl⟩

theorem witness_OnlyInitWarmupAndResetWriteWcnt :
    ∃ t, (warmAt 700#11 zeroLoaded).Inv ∧ step (warmAt 700#11 zeroLoaded) = .next t := ⟨_, warm_inv, rfl⟩

/-- The three ways out of a PHASE: the last warm-up step, an INIT, a reset. -/
theorem witness_OnlyInitWarmupAndResetWritePhase :
    nextWith (step (warmAt 1151#11 zeroLoaded)) (fun t => t.phase ≠ .warmup) = true ∧
    nextWith (step (staged.withHead 0x03000000#32)) (fun t => t.phase ≠ .idle) = true ∧
    nextWith (step ((readyAt zeroStart).giveTurn .reset)) (fun t => t.phase ≠ .ready) = true := by decide +kernel

theorem witness_OneResponsePerConsumedCommandInOrder :
    ∃ t, step ((readyAt zeroStart).withHead 0x06000000#32) = .next t ∧ t.responses.length = 1 := ⟨_, rfl, rfl⟩

/-- The two ends of each index range: the new bit at 0, the top bits of A, B and C. -/
theorem witness_StepComputesTapsFeedbackAndShift : (0 : Nat) ≤ 92 ∧ (92 : Nat) ≤ 92 ∧ (83 : Nat) ≤ 83 ∧ (110 : Nat) ≤ 110 := by
  decide

/-- The last key bit and the first zero above it, of A and of B. -/
theorem witness_InitPlacesKeyIvAndConstant : (79 : Nat) ≤ 92 ∧ (79 : Nat) < 80 ∧ (80 : Nat) ≤ 83 ∧ ¬ (80 : Nat) < 80 := by
  decide

theorem witness_KeystreamBytesPackLsbFirst : (7 : Nat) < 8 := by decide

theorem witness_KeystreamIsTheFirstBytesOrInvalidArgument : (0 : Int) ≤ 0 ∧ (-1 : Int) < 0 := by decide

theorem witness_XorTransformXorsBytewise : 13 < [0x41#8, 0x74, 0x74, 0x61, 0x63, 0x6B, 0x20, 0x61, 0x74, 0x20, 0x64, 0x61, 0x77, 0x6E].length := by
  decide

theorem witness_ShorterKeystreamIsAPrefix :
    (2 : Nat) ≤ 4 ∧ ∃ long, keystream [] [] (4 : Nat) = .bytes long := ⟨by decide, _, by rw [keystream, if_neg (by decide)]⟩

theorem witness_KeybStagesOneKeyByte :
    (0x010000FF#32).extractLsb' 24 8 = 0x01#8 ∧ (0x01000100#32).extractLsb' 24 8 = 0x01#8 ∧ staged.accepting ∧
    (warmAt 700#11 zeroLoaded).accepting := by
  refine ⟨?_, ?_, staged_accepting, warm_accepting⟩ <;> decide

theorem witness_IvbStagesOneIvByte :
    (0x020000FF#32).extractLsb' 24 8 = 0x02#8 ∧ (0x02800000#32).extractLsb' 24 8 = 0x02#8 ∧ staged.accepting ∧
    (readyAt zeroStart).accepting := by
  refine ⟨?_, ?_, staged_accepting, ready_accepting⟩ <;> decide

theorem witness_InitLoadsTheSessionAndClearsStaging :
    staged.accepting ∧ (readyAt zeroStart).accepting ∧ staged.respCap = none ∧ ∃ t, exec .init staged = .next t :=
  ⟨staged_accepting, ready_accepting, rfl, _, rfl⟩

/-- One state for each clause of GEN: any phase with n < 0, IDLE, WARMUP and READY with n ≥ 0. -/
theorem witness_GenGeneratesKeystream :
    0x04FFFFFF#32 &&& 0xFF000000#32 = 0x04000000#32 ∧
    ((warmAt 700#11 zeroLoaded).accepting ∧ (-1 : Int) < 0) ∧
    (staged.accepting ∧ (0 : Int) ≤ 0 ∧ staged.phase = .idle) ∧
    ((warmAt 1151#11 zeroLoaded).accepting ∧ (0 : Int) ≤ 0 ∧ (warmAt 1151#11 zeroLoaded).phase = .warmup) ∧
    ((readyAt zeroStart).accepting ∧ (0 : Int) ≤ 8388607 ∧ (readyAt zeroStart).phase = .ready) := by decide +kernel

theorem witness_XorbXorsTheNextKeystreamByte :
    (0x05000041#32).extractLsb' 24 8 = 0x05#8 ∧
    (staged.accepting ∧ staged.phase = .idle) ∧
    ((warmAt 0#11 zeroLoaded).accepting ∧ (warmAt 0#11 zeroLoaded).phase = .warmup) ∧
    ((readyAt zeroStart).accepting ∧ (readyAt zeroStart).phase = .ready) ∧ (readyAt zeroStart).respCap = none ∧
    (State.accepting { readyAt zeroStart with keycnt := 1#4 } ∧
      { readyAt zeroStart with keycnt := 1#4 }.cipher = (readyAt zeroStart).cipher) := by decide +kernel

theorem witness_StatReportsStatus :
    staged.accepting ∧ ((warmAt 700#11 zeroLoaded).Inv ∧ (warmAt 700#11 zeroLoaded).phase = .warmup) ∧
    ((readyAt zeroStart).Inv ∧ (readyAt zeroStart).accepting ∧ (readyAt zeroStart).phase = .ready ∧
      (readyAt zeroStart).wcnt = 1152#11 ∧ (readyAt zeroStart).keycnt = 0#4 ∧ (readyAt zeroStart).ivcnt = 0#4) :=
  ⟨staged_accepting, ⟨warm_inv, rfl⟩, ready_inv, ready_accepting, rfl, rfl, rfl, rfl⟩

theorem witness_StatReports_monotone :
    ∃ t, (warmAt 700#11 zeroLoaded).Inv ∧ step (warmAt 700#11 zeroLoaded) = .next t ∧
      ¬ Performed .init (warmAt 700#11 zeroLoaded) t ∧ ∀ rest, (warmAt 700#11 zeroLoaded).schedule ≠ .reset :: rest := by
  refine ⟨_, warm_inv, rfl, ?_, ?_⟩
  · rintro ⟨w, h, -⟩
    cases h
  · intro rest h
    cases h

theorem witness_CommandsWriteOnlyTheirFields :
    (∃ t, exec (.keyb 0x11#8) staged = .next t) ∧ (∃ t, exec (.ivb 0x11#8) staged = .next t) ∧
    (∃ t, exec .init staged = .next t) ∧ (∃ t, exec (.gen 2) (readyAt zeroStart) = .next t) ∧
    (∃ t, exec (.xorb 0x11#8) (readyAt zeroStart) = .next t) ∧ (∃ t, exec .stat staged = .next t) :=
  ⟨⟨_, rfl⟩, ⟨_, rfl⟩, ⟨_, rfl⟩, ⟨_, rfl⟩, ⟨_, rfl⟩, ⟨_, rfl⟩⟩

/-- A response of each code. -/
theorem witness_ResponsePayloads :
    (∃ t, exec (.gen 2) (readyAt zeroStart) = .next t ∧ t.responses = [] ++ [⟨.ok, [0xFB, 0xE0]⟩]) ∧
    (∃ t, exec (.gen (-1)) staged = .next t ∧ t.responses = [] ++ [⟨.invalidArgument, Config.lengthBytesName⟩]) ∧
    (∃ t, exec (.xorb 0#8) staged = .next t ∧ t.responses = [] ++ [⟨.notInitialized, []⟩]) ∧
    (∃ t, execIllegal staged = .next t ∧ t.responses = [] ++ [⟨.illegalCommand, []⟩]) := by
  refine ⟨⟨_, rfl, ?_⟩, ⟨_, rfl, rfl⟩, ⟨_, rfl, rfl⟩, _, rfl, rfl⟩
  show ([] : List Response) ++ [⟨.ok, (zeroStart.draw 2).1⟩] = _
  decide +kernel

theorem witness_ErrorsArePrecise :
    Code.illegalCommand ≠ .ok ∧ ∃ t, step ((staged.withHead 0x07000000#32).giveTurn .command) = .next t ∧
      t.responses = staged.responses ++ [⟨.illegalCommand, []⟩] := ⟨by decide, _, rfl, rfl⟩

/-- One word for each of the five checks, in an accepting state of the phase it needs. -/
theorem witness_OutcomePriority :
    staged.accepting ∧ (warmAt 700#11 zeroLoaded).accepting ∧ (readyAt zeroStart).accepting ∧
    decode 0x07000000#32 = .illegal .undefinedOpcode ∧ decode 0x04FFFFFF#32 = .command (.gen (-1)) ∧
    decode 0x04000000#32 = .command (.gen 0) ∧ decode 0x05000000#32 = .command (.xorb 0#8) ∧
    decode 0x06000000#32 = .command .stat := by
  refine ⟨staged_accepting, warm_accepting, ready_accepting, ?_⟩
  decide +kernel

theorem witness_HoldsAndHowTheyLift :
    ((warmAt 700#11 zeroLoaded).violation = none ∧ (warmAt 700#11 zeroLoaded).holds 0x04000000#32 = true) ∧
    (blocked.violation = none ∧ blocked.holds 0x06000000#32 = true) ∧
    ((warmAt 700#11 zeroLoaded).Inv ∧ (warmAt 700#11 zeroLoaded).respCap = none ∧ (warmAt 700#11 zeroLoaded).schedule = [] ∧
      (warmAt 700#11 zeroLoaded).phase = .warmup ∧ (warmAt 700#11 zeroLoaded).holds 0x05000000#32 = true) := by
  refine ⟨⟨rfl, ?_⟩, ⟨rfl, ?_⟩, warm_inv, rfl, rfl, rfl, ?_⟩ <;> decide +kernel

theorem witness_SplitGenerationEqualsOne :
    (readyAt zeroStart).violation = none ∧ (readyAt zeroStart).respCap = none ∧ (readyAt zeroStart).phase = .ready :=
  ⟨rfl, rfl, rfl⟩

theorem witness_StagingCommutesWithWarmup :
    (Instr.keyb 0x55#8 = .keyb 0x55#8 ∨ Instr.keyb 0x55#8 = .ivb 0x55#8) ∧ (warmAt 1151#11 zeroLoaded).accepting ∧
    (warmAt 1151#11 zeroLoaded).phase = .warmup ∧ (warmAt 1151#11 zeroLoaded).wcnt.toNat ≤ 1151 := by decide +kernel

theorem witness_InitForgetsTheOldSession :
    staged.accepting ∧ State.accepting { staged with cipher := zeroStart, phase := .ready, wcnt := 1152#11 } := by
  decide +kernel

/-- A GEN still at the head: it is held in WARMUP, the reset leaves it, and it is then performed. -/
theorem witness_ResetEventEffect :
    ((warmAt 700#11 zeroLoaded).withHead 0x04000000#32).commands = 0x04000000#32 :: [] ∧
    ((warmAt 700#11 zeroLoaded).withHead 0x04000000#32).respCap = none ∧ (warmAt 700#11 zeroLoaded).violation = none ∧
    (∃ n, decode 0x04000000#32 = .command (.gen n) ∧ 0 ≤ n) ∧
    ∃ t u, step (((warmAt 700#11 zeroLoaded).withHead 0x04000000#32).giveTurn .reset) = .next t ∧
      step (t.giveTurn .command) = .next u :=
  ⟨rfl, rfl, rfl, ⟨0, by decide +kernel, by decide⟩, _, _, rfl, rfl⟩

theorem witness_FaultsExactlyInImpossibleStates :
    decode 0x00000000#32 = .illegal .undefinedOpcode ∧ staged.accepting := by decide +kernel

/-- Each of the four model faults, at the first value out of range. -/
theorem witness_Faults :
    State.violation { staged with phase := .reserved } = some .reservedPhase ∧
    State.violation { staged with wcnt := 1153#11 } = some .wcntOutOfRange ∧
    State.violation { staged with keycnt := 11#4 } = some .keycntOutOfRange ∧
    State.violation { staged with ivcnt := 11#4 } = some .ivcntOutOfRange := by decide +kernel

theorem witness_EveryStepKeepsTheInvariant :
    (∃ t, blocked.Inv ∧ step blocked = .next t) ∧ (∃ t, staged.Inv ∧ step staged = .next t) :=
  ⟨⟨_, blocked_inv, rfl⟩, _, staged_inv, rfl⟩

theorem witness_NoFaultOrRefusalUnderTheInvariant : blocked.Inv ∧ staged.Inv := ⟨blocked_inv, staged_inv⟩

theorem witness_UnfinishedRunsMakeProgress :
    (warmAt 700#11 zeroLoaded).Inv ∧ (warmAt 700#11 zeroLoaded).respCap = none ∧ (warmAt 700#11 zeroLoaded).schedule = [] ∧
    ¬ (warmAt 700#11 zeroLoaded).finished := ⟨warm_inv, rfl, rfl, fun h => h.2 rfl⟩

/-- Presented words and a schedule do not touch the invariant. -/
theorem witness_EveryFiniteRunEnds :
    (((warmAt 700#11 zeroLoaded).withHead 0x04000004#32).giveTurn .reset).Inv ∧
    (((warmAt 700#11 zeroLoaded).withHead 0x04000004#32).giveTurn .reset).respCap = none := ⟨warm_inv, rfl⟩

theorem witness_ConsumingAResponseMakesRoom :
    blocked.Inv ∧ blocked.respCap = some 1 ∧ (0 : Nat) < 1 ∧ blocked.channelFull = true :=
  ⟨blocked_inv, rfl, by decide, rfl⟩

theorem witness_SessionStartsAtItsKeystream :
    (readyAt zeroStart).violation = none ∧ (readyAt zeroStart).respCap = none ∧ (readyAt zeroStart).stagingEmpty ∧
    Instr.init ∉ [Instr.keyb 0x01#8, .gen 4, .ivb 0x02#8, .xorb 0x03#8, .stat] :=
  ⟨rfl, rfl, ⟨rfl, rfl, rfl, rfl⟩, by decide⟩

theorem witness_TransactionWordsAreLegal :
    0x04FFFFFF#32 ∈ hostGenerateWords [0x01#8] [] (-1) ∧ 0x05000041#32 ∈ hostXorWords [0x01#8] [0x02#8] [0x41#8] := by
  decide +kernel

/-- A session still warming up may be followed by a transaction, whatever finite schedule without a reset runs it. -/
theorem witness_HostGenerateIsKeystream :
    ((warmAt 700#11 zeroLoaded).giveTurn .take).Inv ∧ ((warmAt 700#11 zeroLoaded).giveTurn .take).quiet ∧
    ((warmAt 700#11 zeroLoaded).giveTurn .take).stagingEmpty ∧ ((warmAt 700#11 zeroLoaded).giveTurn .take).commands = [] :=
  ⟨warm_inv, ⟨by decide, rfl⟩, ⟨rfl, rfl, rfl, rfl⟩, rfl⟩

theorem witness_HostXorIsXorTransform :
    (readyAt zeroStart).Inv ∧ (readyAt zeroStart).quiet ∧ (readyAt zeroStart).stagingEmpty ∧ (readyAt zeroStart).commands = [] :=
  ⟨ready_inv, ⟨by decide, rfl⟩, ⟨rfl, rfl, rfl, rfl⟩, rfl⟩

end Sys2Proof.Tests
end

section
/-! SUPPORT. The statements about the state record: where the fields of STATUS stand (spec/10_state.md R32), the reset
values (R36), and who writes WCNT (R28), with the lemmas they need about a step. -/

namespace Sys2Proof.Machine

/-! ## STATUS and the reset values -/

/-- The shifts of R32 put the fields of STATUS side by side, PHASE lowest, and no two overlap: by the field in which a
bit lies. -/
theorem status_eq_append (s : State) :
    s.status = 0#11 ++ s.wcnt ++ s.ivcnt ++ s.keycnt ++ s.phase.bits := by
  apply BitVec.eq_of_getLsbD_eq
  intro k hk
  simp only [State.status, BitVec.getLsbD_or, BitVec.getLsbD_shiftLeft, BitVec.getLsbD_setWidth,
    BitVec.getLsbD_append, Nat.sub_sub]
  obtain hf | hf | hf | hf | hf : k < 2 ∨ (2 ≤ k ∧ k < 6) ∨ (6 ≤ k ∧ k < 10) ∨ (10 ≤ k ∧ k < 21) ∨ 21 ≤ k := by
    omega
  all_goals
    simp (disch := omega) [BitVec.getLsbD_of_ge, if_pos, if_neg, decide_eq_true, decide_eq_false]

/-- Settles O33: each field is cut out of the concatenation that STATUS is. -/
theorem statusFieldLayout : Obligations.StatusFieldLayout := by
  refine ⟨rfl, rfl, rfl, fun s => ?_⟩
  simp only [status_eq_append, BitVec.extractLsb'_append_eq_of_le, BitVec.extractLsb'_append_eq_right,
    BitVec.extractLsb'_eq_self, Nat.reduceSub, Nat.reduceLeDiff, and_self]

/-- Settles O42: the fields by the definition of the reset state, STATUS from them. -/
theorem resetValues : Obligations.ResetValues := by
  refine ⟨rfl, rfl, rfl, State.reset_phase, State.reset_wcnt, rfl, State.reset_keycnt, rfl, State.reset_ivcnt, ?_⟩
  rw [status_eq_append, State.reset_phase, State.reset_wcnt, State.reset_keycnt, State.reset_ivcnt]
  decide

/-! ## Who writes PHASE and WCNT -/

/-- An INIT that answers a next state was held, or loaded the session (R142). -/
theorem exec_init_cases {s t : State} (h : exec .init s = .next t) : t = s ∨ t = respond .ok [] (loadSession s) := by
  obtain ⟨-, ⟨-, ht⟩ | ⟨-, ht⟩⟩ := perform_eq_next (exec_init_eq .. ▸ h)
  · exact .inl ht
  · exact .inr (by simpa using ht.symm)

/-- An Illegal word that answers a next state was held, or got its response (R65). -/
theorem execIllegal_cases {s t : State} (h : execIllegal s = .next t) : t = s ∨ t = respond .illegalCommand [] s := by
  obtain ⟨-, ⟨-, ht⟩ | ⟨-, ht⟩⟩ := perform_eq_next h
  · exact .inl ht
  · exact .inr (by simpa [raise] using ht.symm)

/-- Of the six commands only INIT writes PHASE or WCNT (R33). -/
theorem exec_phase_wcnt_of_ne_init {i : Instr} {s t : State} (hi : i ≠ .init) (h : exec i s = .next t) :
    t.phase = s.phase ∧ t.wcnt = s.wcnt := by
  obtain ⟨-, rfl | ⟨-, hc⟩⟩ := exec_cases h
  · exact ⟨rfl, rfl⟩
  · simp only [hi, false_and, false_or] at hc
    obtain ⟨_, -, rfl⟩ | ⟨_, -, rfl⟩ | ⟨_, -, -, rfl⟩ | ⟨_, -, -, -, rfl⟩ | ⟨_, -, -, -, rfl⟩ |
      ⟨_, -, -, rfl⟩ | ⟨_, -, -, rfl⟩ | ⟨-, rfl⟩ := hc
    all_goals exact ⟨rfl, rfl⟩

/-- A command turn leaves PHASE and WCNT as they are, or performs the INIT at the head of the stream. -/
theorem commandTurn_phase_wcnt {s t : State} (h : commandTurn s = .next t) :
    (t.phase = s.phase ∧ t.wcnt = s.wcnt) ∨ (Performed .init s t ∧ t.phase = .warmup ∧ t.wcnt = 0#11) := by
  obtain ⟨-, -, rfl⟩ | ⟨w, cs, i, hcs, hw, h⟩ | ⟨w, cs, why, -, -, h⟩ := commandTurn_cases h
  · exact .inl ⟨rfl, rfl⟩
  · by_cases hi : i = .init
    · subst hi
      obtain rfl | rfl := exec_init_cases h
      · exact .inl ⟨rfl, rfl⟩
      · exact .inr ⟨⟨w, by simp [hcs], hw⟩, rfl, rfl⟩
    · exact .inl (exec_phase_wcnt_of_ne_init hi h)
  · obtain rfl | rfl := execIllegal_cases h <;> exact .inl ⟨rfl, rfl⟩

/-- The writers of PHASE and WCNT by turn: INIT, the warm-up engine and the reset (R27, R28). -/
theorem runTurn_phase_wcnt {turn : Turn} {s t : State} (h : runTurn turn s = .next t) :
    (t.phase = s.phase ∧ t.wcnt = s.wcnt) ∨
    (Performed .init s t ∧ t.phase = .warmup ∧ t.wcnt = 0#11) ∨
    (s.phase = .warmup ∧ t.phase = (if s.wcnt + 1#11 = 1152#11 then .ready else .warmup) ∧ t.wcnt = s.wcnt + 1#11) ∨
    (turn = .reset ∧ t.phase = .idle ∧ t.wcnt = 0#11) := by
  cases turn with
  | command => exact (commandTurn_phase_wcnt h).imp_right .inl
  | warmup =>
    obtain ⟨-, ⟨hp, rfl⟩ | ⟨-, rfl⟩⟩ := warmupTurn_cases h
    · exact .inr (.inr (.inl ⟨hp, by rw [wstep_phase, hp], wstep_wcnt s⟩))
    · exact .inl ⟨rfl, rfl⟩
  | take =>
    obtain ⟨-, rfl⟩ := takeTurn_cases h
    exact .inl ⟨takeResponse_phase s, takeResponse_wcnt s⟩
  | reset =>
    obtain ⟨-, rfl⟩ := resetTurn_cases h
    exact .inr (.inr (.inr ⟨rfl, resetBlock_phase s, resetBlock_wcnt s⟩))

/-- A step is one turn on the state up to its schedule and tick, and a reset only where the schedule names one (R52). -/
theorem step_eq_runTurn_upto_schedule (s : State) : ∃ turn u, step s = runTurn turn u ∧
    u = { s with schedule := u.schedule, tick := u.tick } ∧
    (turn = .reset → ∃ rest, s.schedule = .reset :: rest) := by
  obtain ⟨turn, u, hstep, ⟨hs, hu⟩ | ⟨hs, hturn, hu⟩⟩ := step_eq_runTurn s
  · exact ⟨turn, u, hstep, by rw [hu], fun hr => ⟨u.schedule, hr ▸ hs⟩⟩
  · refine ⟨turn, u, hstep, ?_, fun hr => ?_⟩
    · obtain rfl | rfl := hu <;> rfl
    · simp [hr] at hturn

/-- What a step does to PHASE and WCNT (R27, R28). -/
theorem step_phase_wcnt {s t : State} (h : step s = .next t) :
    (t.phase = s.phase ∧ t.wcnt = s.wcnt) ∨
    (Performed .init s t ∧ t.phase = .warmup ∧ t.wcnt = 0#11) ∨
    (s.phase = .warmup ∧ t.phase = (if s.wcnt + 1#11 = 1152#11 then .ready else .warmup) ∧ t.wcnt = s.wcnt + 1#11) ∨
    ((∃ rest, s.schedule = .reset :: rest) ∧ t.phase = .idle ∧ t.wcnt = 0#11) := by
  obtain ⟨turn, u, hstep, hu, hreset⟩ := step_eq_runTurn_upto_schedule s
  have hphase : u.phase = s.phase := by rw [hu]
  have hwcnt : u.wcnt = s.wcnt := by rw [hu]
  have hcommands : u.commands = s.commands := by rw [hu]
  have hrun := runTurn_phase_wcnt (hstep ▸ h)
  rw [hphase, hwcnt, Performed, hcommands] at hrun
  exact hrun.imp_right (.imp_right (.imp_right (.imp_left hreset)))

/-- Under the invariant WCNT is below 1152 in WARMUP (R31). -/
theorem State.Inv.wcnt_le_of_warmup {s : State} (h : s.Inv) (hp : s.phase = .warmup) : s.wcnt.toNat ≤ 1151 := by
  simpa [State.PhaseInv, hp] using h.1

/-- Under the invariant WCNT is at most 1152 in every phase (R28, R31). -/
theorem State.Inv.wcnt_le {s : State} (h : s.Inv) : s.wcnt.toNat ≤ 1152 := by
  obtain ⟨hphase, -⟩ := h
  unfold State.PhaseInv at hphase
  split at hphase
  · simp [hphase.1]
  · omega
  · simp [hphase]
  · exact hphase.elim

/-- Settles O10, by the writers of WCNT; in WARMUP the invariant leaves room for one more. -/
theorem onlyInitWarmupAndResetWriteWcnt : Obligations.OnlyInitWarmupAndResetWriteWcnt := by
  intro s t hinv h
  obtain ⟨-, hw⟩ | ⟨hinit, -, hw⟩ | ⟨hp, -, hw⟩ | ⟨hreset, -, hw⟩ := step_phase_wcnt h
  · exact ⟨hw ▸ hinv.wcnt_le, .inl hw⟩
  · exact ⟨by simp [hw], .inr (.inl ⟨hinit, hw⟩)⟩
  · have hle := hinv.wcnt_le_of_warmup hp
    have hsucc : t.wcnt.toNat = s.wcnt.toNat + 1 := hw ▸ wcnt_succ_toNat hle
    exact ⟨by omega, .inr (.inr (.inl ⟨hp, hsucc⟩))⟩
  · exact ⟨by simp [hw], .inr (.inr (.inr ⟨hreset, hw⟩))⟩

end Sys2Proof.Machine
end

section
/-! SUPPORT. The statement about the order of responses (spec/20_memory.md R51): a performed command is one `respond`,
and no other turn writes the command stream or the responses. -/

namespace Sys2Proof.Machine

/-- Between `s` and `t` the head word was consumed and one response was appended (R51). -/
def HeadAnswered (s t : State) : Prop := ∃ w r, s.commands = w :: t.commands ∧ t.responses = s.responses ++ [r]

/-- `respond` answers the head word of `s`, whatever the command did to the fields of R20 before it. -/
theorem headAnswered_respond {s u : State} {w : CmdWord} {cs : List CmdWord} (hs : s.commands = w :: cs)
    (hcommands : u.commands = s.commands) (hresponses : u.responses = s.responses) (code : Code) (payload : List Byte) :
    HeadAnswered s (respond code payload u) :=
  ⟨w, ⟨code, payload⟩, by simp [hcommands, hs], by simp [hresponses]⟩

/-- A command that answers a next state was held, or ended in one `respond` and wrote neither the command stream nor the
responses before it (R9, R51). -/
theorem exec_hold_or_respond {i : Instr} {s t : State} (h : exec i s = .next t) :
    t = s ∨ ∃ code payload u, t = respond code payload u ∧ u.commands = s.commands ∧ u.responses = s.responses := by
  obtain ⟨-, hheld | ⟨-, hc⟩⟩ := exec_cases h
  · exact .inl hheld
  · right
    obtain ⟨_, -, ht⟩ | ⟨_, -, ht⟩ | ⟨-, ht⟩ | ⟨_, -, -, ht⟩ | ⟨_, -, -, -, ht⟩ | ⟨_, -, -, -, ht⟩ |
      ⟨_, -, -, ht⟩ | ⟨_, -, -, ht⟩ | ⟨-, ht⟩ := hc
    all_goals exact ⟨_, _, _, ht, rfl, rfl⟩

/-- A command turn changes nothing, or answers the head word (R51, R65). -/
theorem commandTurn_headAnswered {s t : State} (h : commandTurn s = .next t) : t = s ∨ HeadAnswered s t := by
  obtain ⟨-, -, ht⟩ | ⟨w, cs, i, hs, -, hi⟩ | ⟨w, cs, why, hs, -, hi⟩ := commandTurn_cases h
  · exact .inl ht
  · refine (exec_hold_or_respond hi).imp_right ?_
    rintro ⟨code, payload, u, rfl, hcommands, hresponses⟩
    exact headAnswered_respond hs hcommands hresponses code payload
  · refine (execIllegal_cases hi).imp_right ?_
    rintro rfl
    exact headAnswered_respond hs rfl rfl .illegalCommand []

/-- Only the command port writes the command stream and the responses: the warm-up engine, the host's consuming and the
reset leave both as they were (R143, R192, R230). -/
theorem runTurn_headAnswered {turn : Turn} {s t : State} (h : runTurn turn s = .next t) :
    (t.commands = s.commands ∧ t.responses = s.responses) ∨ HeadAnswered s t := by
  cases turn with
  | command =>
    refine (commandTurn_headAnswered h).imp_left ?_
    rintro rfl
    exact ⟨rfl, rfl⟩
  | warmup =>
    obtain ⟨-, ⟨-, rfl⟩ | ⟨-, rfl⟩⟩ := warmupTurn_cases h
    · exact .inl ⟨wstep_commands s, wstep_responses s⟩
    · exact .inl ⟨rfl, rfl⟩
  | take =>
    obtain ⟨-, rfl⟩ := takeTurn_cases h
    exact .inl ⟨takeResponse_commands s, takeResponse_responses s⟩
  | reset =>
    obtain ⟨-, rfl⟩ := resetTurn_cases h
    exact .inl ⟨resetBlock_commands s, resetBlock_responses s⟩

/-- Settles O12: a step is one turn on a state with the same command stream and the same responses. -/
theorem oneResponsePerConsumedCommandInOrder : Obligations.OneResponsePerConsumedCommandInOrder := by
  intro s t h
  obtain ⟨turn, u, hstep, hu, -⟩ := step_eq_runTurn_upto_schedule s
  have hcommands : u.commands = s.commands := by rw [hu]
  have hresponses : u.responses = s.responses := by rw [hu]
  have hrun := runTurn_headAnswered (hstep ▸ h)
  rwa [HeadAnswered, hcommands, hresponses] at hrun

end Sys2Proof.Machine
end

section
/-! SUPPORT. The statements about the encoding (spec/30_encoding.md): what a row of the opcode map says of a word's
fields (R64), what a word decodes to by its OPC (R67), and from these the illegal words (R65) and the length of GEN
(R63). -/

namespace Sys2Proof.Machine

/-! ## What mask and match say of the fields -/

/-- Two words are equal exactly when both their fields are (R60). -/
theorem packWord_inj {opc opc' : BitVec 8} {opnd opnd' : BitVec 24} :
    packWord opc opnd = packWord opc' opnd' ↔ opc = opc' ∧ opnd = opnd' := by
  constructor
  · intro h
    exact ⟨by simpa using congrArg opcField h, by simpa using congrArg opndField h⟩
  · rintro ⟨rfl, rfl⟩
    rfl

/-- A mask that covers OPC, and `opndMask` of OPND, selects the words with the OPC of the match and no bit of OPND set
under `opndMask`. -/
theorem and_packWord_eq_iff (w : CmdWord) (opndMask : BitVec 24) (opc : BitVec 8) :
    w &&& packWord 0xFF#8 opndMask = packWord opc 0#24 ↔ opcField w = opc ∧ opndField w &&& opndMask = 0#24 := by
  have hand : w &&& packWord 0xFF#8 opndMask = packWord (opcField w) (opndField w &&& opndMask) := by
    conv_lhs => rw [← packWord_fields w]
    rw [packWord, packWord, packWord, BitVec.and_append, show 0xFF#8 = BitVec.allOnes 8 from rfl, BitVec.and_allOnes]
  rw [hand, packWord_inj]

/-- The bits of OPND above DATA are the reserved bits of form B (R62). -/
theorem opndField_and_eq_zero_iff (w : CmdWord) : opndField w &&& 0xFFFF00#24 = 0#24 ↔ reservedField w = 0#16 := by
  have hopnd : opndField w = reservedField w ++ dataField w :=
    (BitVec.extractLsb'_append_extractLsb'_eq_extractLsb' (start₁ := 0) (len₁ := 8) (len₂ := 16) rfl).symm
  have hand : opndField w &&& 0xFFFF00#24 = reservedField w ++ 0#8 := by
    rw [hopnd, show 0xFFFF00#24 = BitVec.allOnes 16 ++ 0#8 from rfl, BitVec.and_append, BitVec.and_allOnes,
      BitVec.and_zero]
  rw [hand]
  constructor
  · intro h
    have happend : reservedField w ++ 0#8 = 0#16 ++ 0#8 := h
    simpa only [BitVec.extractLsb'_append_eq_left] using congrArg (BitVec.extractLsb' 8 16) happend
  · intro h
    rw [h]
    rfl

/-- A row of form B selects by OPC and the reserved bits (R62, R64). -/
theorem byteRow_selects_iff (w : CmdWord) (opc : BitVec 8) :
    w &&& 0xFFFFFF00#32 = packWord opc 0#24 ↔ opcField w = opc ∧ reservedField w = 0#16 := by
  rw [← opndField_and_eq_zero_iff]
  exact and_packWord_eq_iff w 0xFFFF00#24 opc

/-- A row of form N selects by the whole word (R61, R64). -/
theorem noneRow_selects_iff (w : CmdWord) (opc : BitVec 8) :
    w &&& 0xFFFFFFFF#32 = packWord opc 0#24 ↔ opcField w = opc ∧ opndField w = 0#24 := by
  have hsel := and_packWord_eq_iff w (BitVec.allOnes 24) opc
  rw [BitVec.and_allOnes] at hsel
  exact hsel

/-- A row of form L selects by OPC alone (R63, R64). -/
theorem lengthRow_selects_iff (w : CmdWord) (opc : BitVec 8) :
    w &&& 0xFF000000#32 = packWord opc 0#24 ↔ opcField w = opc := by
  have hsel := and_packWord_eq_iff w 0#24 opc
  rw [BitVec.and_zero, eq_self, and_true] at hsel
  exact hsel

/-- Every match has no OPND, and the row's mask covers OPC: so a selected word has the OPC of the match (R64). -/
theorem rowMatch_eq_of_selects {w : CmdWord} {i : Instr} (h : w &&& rowMask i = rowMatch i) :
    rowMatch i = packWord (opcField w) 0#24 := by
  cases i with
  | keyb => rw [((byteRow_selects_iff w 0x01#8).mp h).1]; rfl
  | ivb => rw [((byteRow_selects_iff w 0x02#8).mp h).1]; rfl
  | init => rw [((noneRow_selects_iff w 0x03#8).mp h).1]; rfl
  | gen => rw [(lengthRow_selects_iff w 0x04#8).mp h]; rfl
  | xorb => rw [((byteRow_selects_iff w 0x05#8).mp h).1]; rfl
  | stat => rw [((noneRow_selects_iff w 0x06#8).mp h).1]; rfl

/-! ## What a word decodes to -/

theorem decodeByte_illegal_iff (make : Byte → Instr) (w : CmdWord) :
    (∃ why, decodeByte make w = .illegal why) ↔ reservedField w ≠ 0#16 := by
  by_cases h : reservedField w = 0#16 <;> simp [decodeByte, h]

theorem decodeNone_illegal_iff (i : Instr) (w : CmdWord) :
    (∃ why, decodeNone i w = .illegal why) ↔ opndField w ≠ 0#24 := by
  by_cases h : opndField w = 0#24 <;> simp [decodeNone, h]

theorem decode_of_keyb_opc {w : CmdWord} (h : opcField w = 0x01#8) : decode w = decodeByte .keyb w := by
  simp [decode, h]

theorem decode_of_ivb_opc {w : CmdWord} (h : opcField w = 0x02#8) : decode w = decodeByte .ivb w := by
  simp [decode, h]

theorem decode_of_init_opc {w : CmdWord} (h : opcField w = 0x03#8) : decode w = decodeNone .init w := by
  simp [decode, h]

theorem decode_of_gen_opc {w : CmdWord} (h : opcField w = 0x04#8) : decode w = .command (.gen (lengthField w)) := by
  simp [decode, h]

theorem decode_of_xorb_opc {w : CmdWord} (h : opcField w = 0x05#8) : decode w = decodeByte .xorb w := by
  simp [decode, h]

theorem decode_of_stat_opc {w : CmdWord} (h : opcField w = 0x06#8) : decode w = decodeNone .stat w := by
  simp [decode, h]

/-- OPC 0x00 and 0x07 to 0xFF are undefined (R65). -/
theorem decode_of_undefined_opc {w : CmdWord} (h : opcField w = 0x00#8 ∨ 0x07 ≤ (opcField w).toNat) :
    decode w = .illegal .undefinedOpcode := by
  obtain ⟨h1, h2, h3, h4, h5, h6⟩ : opcField w ≠ 0x01#8 ∧ opcField w ≠ 0x02#8 ∧ opcField w ≠ 0x03#8 ∧
      opcField w ≠ 0x04#8 ∧ opcField w ≠ 0x05#8 ∧ opcField w ≠ 0x06#8 := by bv_omega
  simp [decode, h1, h2, h3, h4, h5, h6]

/-- The OPCs fall into the six of R64 and the undefined ones of R65. -/
theorem opcField_cases (w : CmdWord) :
    opcField w = 0x01#8 ∨ opcField w = 0x02#8 ∨ opcField w = 0x03#8 ∨ opcField w = 0x04#8 ∨ opcField w = 0x05#8 ∨
      opcField w = 0x06#8 ∨ (opcField w = 0x00#8 ∨ 0x07 ≤ (opcField w).toNat) := by
  bv_omega

/-- Exactly the words with an undefined OPC or a non-zero reserved operand bit are illegal (R61, R62, R65). -/
theorem decode_illegal_iff (w : CmdWord) : (∃ why, decode w = .illegal why) ↔
    (opcField w = 0x00#8 ∨ 0x07 ≤ (opcField w).toNat ∨
      ((opcField w = 0x01#8 ∨ opcField w = 0x02#8 ∨ opcField w = 0x05#8) ∧ reservedField w ≠ 0#16) ∨
      ((opcField w = 0x03#8 ∨ opcField w = 0x06#8) ∧ opndField w ≠ 0#24)) := by
  obtain h | h | h | h | h | h | h := opcField_cases w
  · rw [decode_of_keyb_opc h, decodeByte_illegal_iff]; simp [h]
  · rw [decode_of_ivb_opc h, decodeByte_illegal_iff]; simp [h]
  · rw [decode_of_init_opc h, decodeNone_illegal_iff]; simp [h]
  · rw [decode_of_gen_opc h]; simp [h]
  · rw [decode_of_xorb_opc h, decodeByte_illegal_iff]; simp [h]
  · rw [decode_of_stat_opc h, decodeNone_illegal_iff]; simp [h]
  · rw [decode_of_undefined_opc h]
    exact iff_of_true ⟨_, rfl⟩ (or_assoc.mp (.inl h))

section
variable {w : CmdWord} {opc : BitVec 8}

/-- A word in a row of form B decodes to the row's command on DATA, once its OPC leads to `decodeByte`. -/
theorem decode_of_byteRow {make : Byte → Instr} (hdec : opcField w = opc → decode w = decodeByte make w)
    (h : w &&& 0xFFFFFF00#32 = packWord opc 0#24) : decode w = .command (make (dataField w)) := by
  obtain ⟨hopc, hreserved⟩ := (byteRow_selects_iff w opc).mp h
  rw [hdec hopc, decodeByte, if_pos hreserved]

/-- A word in a row of form N decodes to the row's command, once its OPC leads to `decodeNone`. -/
theorem decode_of_noneRow {i : Instr} (hdec : opcField w = opc → decode w = decodeNone i w)
    (h : w &&& 0xFFFFFFFF#32 = packWord opc 0#24) : decode w = .command i := by
  obtain ⟨hopc, hopnd⟩ := (noneRow_selects_iff w opc).mp h
  rw [hdec hopc, decodeNone, if_pos hopnd]

/-- A legal word whose OPC leads to `decodeByte` lies in the row of form B. -/
theorem byteRow_of_legal {make : Byte → Instr} (hopc : opcField w = opc) (hdec : decode w = decodeByte make w)
    (h : ¬ ∃ why, decode w = .illegal why) : w &&& 0xFFFFFF00#32 = packWord opc 0#24 := by
  rw [hdec, decodeByte_illegal_iff, not_not] at h
  exact (byteRow_selects_iff w opc).mpr ⟨hopc, h⟩

/-- A legal word whose OPC leads to `decodeNone` lies in the row of form N. -/
theorem noneRow_of_legal {i : Instr} (hopc : opcField w = opc) (hdec : decode w = decodeNone i w)
    (h : ¬ ∃ why, decode w = .illegal why) : w &&& 0xFFFFFFFF#32 = packWord opc 0#24 := by
  rw [hdec, decodeNone_illegal_iff, not_not] at h
  exact (noneRow_selects_iff w opc).mpr ⟨hopc, h⟩

end

/-- A legal word lies in a row of the opcode map, by its OPC (R64, R67). -/
theorem exists_row_of_legal {w : CmdWord} (h : ¬ ∃ why, decode w = .illegal why) :
    ∃ i, w &&& rowMask i = rowMatch i := by
  obtain ho | ho | ho | ho | ho | ho | ho := opcField_cases w
  · exact ⟨.keyb 0#8, byteRow_of_legal ho (decode_of_keyb_opc ho) h⟩
  · exact ⟨.ivb 0#8, byteRow_of_legal ho (decode_of_ivb_opc ho) h⟩
  · exact ⟨.init, noneRow_of_legal ho (decode_of_init_opc ho) h⟩
  · exact ⟨.gen 0, (lengthRow_selects_iff w 0x04#8).mpr ho⟩
  · exact ⟨.xorb 0#8, byteRow_of_legal ho (decode_of_xorb_opc ho) h⟩
  · exact ⟨.stat, noneRow_of_legal ho (decode_of_stat_opc ho) h⟩
  · exact absurd ⟨_, decode_of_undefined_opc ho⟩ h

/-- Settles O3: each row by what its mask and match say of the fields; two rows that select one word have its OPC. -/
theorem opcodeMapSelectsByMaskAndMatch : Obligations.OpcodeMapSelectsByMaskAndMatch := by
  intro w
  refine ⟨decode_of_byteRow (opc := 0x01#8) decode_of_keyb_opc, decode_of_byteRow (opc := 0x02#8) decode_of_ivb_opc,
    decode_of_noneRow (opc := 0x03#8) decode_of_init_opc,
    fun h => decode_of_gen_opc ((lengthRow_selects_iff w 0x04#8).mp h),
    decode_of_byteRow (opc := 0x05#8) decode_of_xorb_opc, decode_of_noneRow (opc := 0x06#8) decode_of_stat_opc,
    fun hnone => ?unselected, fun i j hi hj => ?disjoint⟩
  case unselected =>
    by_contra hlegal
    obtain ⟨i, hi⟩ := exists_row_of_legal hlegal
    exact hnone i hi
  case disjoint => rw [rowMatch_eq_of_selects hi, rowMatch_eq_of_selects hj]

/-- Settles O4: the illegal words by their OPC, and performing one is one `respond` on the state. -/
theorem illegalWordsGetTheirResponse : Obligations.IllegalWordsGetTheirResponse := by
  refine ⟨decode_illegal_iff, fun w why s hd hs => ?_, rfl⟩
  calc step ((s.withHead w).giveTurn .command)
      = commandTurn (s.withHead w) := step_giveTurn (s.withHead w) .command
    _ = execIllegal (s.withHead w) := commandTurn_of_illegal (s.withHead_commands w) hd
    _ = .next (respond .illegalCommand [] (s.withHead w)) := execIllegal_of_accepting (withHead_accepting hs w)
    _ = .next { s with responses := s.responses ++ [⟨.illegalCommand, []⟩] } := rfl

/-- sext_24 takes 2^24 off the field's value when CMD[23] is set (R63). -/
theorem lengthField_eq_sub (w : CmdWord) :
    lengthField w = ((opndField w).toNat : Int) - (if w.getLsbD 23 then 2 ^ 24 else 0) := by
  have hmsb : (opndField w).msb = w.getLsbD 23 := by
    simp [BitVec.msb_eq_getLsbD_last, opndField]
  rw [lengthField, BitVec.toInt_eq_msb_cond, hmsb]
  split <;> simp

/-- Settles O5: the length is sext_24 of OPND, and the sign of n is the first check of GEN. -/
theorem genLengthIsSigned24Bits : Obligations.GenLengthIsSigned24Bits := by
  intro w hopc
  obtain ⟨hmin, hmax⟩ := lengthField_range w
  refine ⟨lengthField w, decode_of_gen_opc hopc, lengthField_eq_sub w, hmin, hmax, fun hneg s hs => ?_⟩
  exact ⟨_, exec_gen_neg_of_accepting hs hneg, respond_responses ..⟩

end Sys2Proof.Machine
end

section
/-! SUPPORT. The statement about responses (spec/30_encoding.md R68, R69): which code and payload each command can
answer with. -/

namespace Sys2Proof.Machine

/-- The one response `respond` adds is the one it names. -/
theorem respond_response_inj {u : State} {rs : List Response} (hu : u.responses = rs) {code code' : Code}
    {payload payload' : List Byte} (h : (respond code payload u).responses = rs ++ [⟨code', payload'⟩]) :
    code' = code ∧ payload' = payload := by
  subst hu
  obtain ⟨rfl, rfl⟩ : code = code' ∧ payload = payload' := by simpa using h
  exact ⟨rfl, rfl⟩

/-- STATUS is read as four bytes (R44, R180). -/
@[simp] theorem statusBytes_length (s : State) : s.statusBytes.length = 4 := rfl

/-- How many bytes a command's OK response carries (R68). -/
def okLength : Instr → Nat
  | .keyb _ => 0
  | .ivb _ => 0
  | .init => 0
  | .gen n => n.toNat
  | .xorb _ => 1
  | .stat => 4

/-- The three kinds of response a command can get: OK with a payload of its length, INVALID_ARGUMENT for a negative GEN,
and NOT_INITIALIZED for a GEN or XORB in IDLE (R68, R69). -/
theorem exec_response_cases {i : Instr} {s t : State} {code : Code} {payload : List Byte} (h : exec i s = .next t)
    (hr : t.responses = s.responses ++ [⟨code, payload⟩]) :
    (code = .ok ∧ payload.length = okLength i) ∨
    (code = .invalidArgument ∧ (∃ n, i = .gen n ∧ n < 0) ∧ payload = Config.lengthBytesName) ∨
    (code = .notInitialized ∧ ((∃ n, i = .gen n) ∨ ∃ data, i = .xorb data) ∧ s.phase = .idle ∧ payload = []) := by
  obtain ⟨-, rfl | ⟨-, hc⟩⟩ := exec_cases h
  · simp at hr
  · obtain ⟨_, rfl, rfl⟩ | ⟨_, rfl, rfl⟩ | ⟨rfl, rfl⟩ | ⟨n, rfl, hn, rfl⟩ | ⟨n, rfl, -, hp, rfl⟩ |
      ⟨n, rfl, -, -, rfl⟩ | ⟨data, rfl, hp, rfl⟩ | ⟨_, rfl, -, rfl⟩ | ⟨rfl, rfl⟩ := hc
    all_goals obtain ⟨rfl, rfl⟩ := respond_response_inj rfl hr
    · exact .inl ⟨rfl, rfl⟩
    · exact .inl ⟨rfl, rfl⟩
    · exact .inl ⟨rfl, rfl⟩
    · exact .inr (.inl ⟨rfl, ⟨n, rfl, hn⟩, rfl⟩)
    · exact .inr (.inr ⟨rfl, .inl ⟨n, rfl⟩, hp, rfl⟩)
    · exact .inl ⟨rfl, Cipher.draw_length n.toNat s.cipher⟩
    · exact .inr (.inr ⟨rfl, .inr ⟨data, rfl⟩, hp, rfl⟩)
    · exact .inl ⟨rfl, rfl⟩
    · exact .inl ⟨rfl, statusBytes_length s⟩

/-- Settles O35: a performed command is one `respond`, and its code fixes which of the three kinds of response it is. -/
theorem responsePayloads : Obligations.ResponsePayloads := by
  refine ⟨fun i s t h => ?_, fun code => ?_, fun i s t code payload h hr => ?_, fun s t code payload h hr => ?_,
    rfl, rfl, rfl, rfl⟩
  · obtain rfl | ⟨code, payload, u, rfl, hcommands, hresponses⟩ := exec_hold_or_respond h
    · exact .inl rfl
    · exact .inr ⟨by rw [respond_commands, hcommands], ⟨code, payload⟩, by rw [respond_responses, hresponses]⟩
  · cases code <;> decide
  · obtain ⟨rfl, hlength⟩ | ⟨rfl, hneg, hname⟩ | ⟨rfl, hcause⟩ := exec_response_cases h hr
    · exact ⟨fun _ => hlength, nofun, nofun, nofun⟩
    · exact ⟨nofun, fun _ => ⟨hneg, hname⟩, nofun, nofun⟩
    · exact ⟨nofun, nofun, fun _ => hcause, nofun⟩
  · obtain rfl | rfl := execIllegal_cases h
    · simp at hr
    · exact respond_response_inj rfl hr

end Sys2Proof.Machine
end

section
/-! SUPPORT. The statements about the functional level (spec/40_core_functions.md R100 to R104, R112 to R114): Normalize
and Bit, the bits of Init and of Step, and the keystream as the list of its bytes. -/

namespace Sys2Proof.Machine

/-! ## Normalize and Bit -/

/-- Settles O15, by whether the input has a byte at the index. -/
theorem normalizeTruncatesAndPads : Obligations.NormalizeTruncatesAndPads := by
  intro buf i
  have hget : (normalizeBuf buf)[i] = buf.getD i.val 0#8 := Vector.getElem_ofFn i.isLt
  rw [hget]
  split
  case isTrue h => exact List.getD_eq_getElem buf 0#8 h
  case isFalse h => exact List.getD_eq_default buf 0#8 (Nat.le_of_not_lt h)

/-- Bit in the div and mod form of R101, its byte still read with a default. -/
theorem bitOf_eq_div_mod (buf : List Byte) (i : Nat) :
    bitOf buf i = if i / 8 < buf.length then (buf.getD (i / 8) 0#8).getLsbD (i % 8) else false := by
  have hdiv : i >>> 3 = i / 8 := Nat.shiftRight_eq_div_pow i 3
  have hmod : i &&& 7 = i % 8 := Nat.and_two_pow_sub_one_eq_mod i 3
  rw [bitOf, hdiv, hmod]
  by_cases h : i / 8 < buf.length
  · rw [if_pos h, if_neg (Nat.not_le_of_lt h)]
  · rw [if_neg h, if_pos (Nat.le_of_not_lt h)]

/-- Settles O16: within the buffer the default is not read, and a bit is a quotient's parity. -/
theorem bitAccessorIsLsbFirst : Obligations.BitAccessorIsLsbFirst := by
  intro buf i
  rw [bitOf_eq_div_mod]
  split
  case isTrue h =>
    rw [List.getD_eq_getElem buf 0#8 h, BitVec.getLsbD, Nat.testBit_eq_decide_div_mod_eq, Nat.shiftRight_eq_div_pow]
  case isFalse => rfl

/-! ## Init and Step -/

/-- Within the width, a built register has the bits it is built from (R8). -/
theorem ofBits_getLsbD_of_lt {w k : Nat} (f : Nat → Bool) (hk : k < w) : (ofBits w f).getLsbD k = f k := by
  rw [ofBits_getLsbD, decide_eq_true hk, Bool.true_and]

/-- The constant of register C (R102): both sides have ones in bits 108 to 110 only. -/
theorem cipherInit_c (key iv : TenBytes) : (cipherInit key iv).c = 0b111#111 <<< 108 := by
  have hones : ∀ m, Nat.testBit 0b111 m = decide (m < 3) := Nat.testBit_two_pow_sub_one 3
  apply BitVec.eq_of_getLsbD_eq
  intro k hk
  rw [cipherInit, ofBits_getLsbD, BitVec.getLsbD_shiftLeft, BitVec.getLsbD_ofNat, hones]
  by_cases h : 108 ≤ k
  · simp (disch := omega) [h, hk, decide_eq_true]
  · simp [h, Nat.lt_of_not_le h]

/-- Settles O14: A and B by the bits they are built from, C as a constant. -/
theorem initPlacesKeyIvAndConstant : Obligations.InitPlacesKeyIvAndConstant := by
  refine fun key iv => ⟨fun k hk => ?a, fun k hk => ?b, cipherInit_c key iv⟩
  case a => rw [cipherInit, ofBits_getLsbD_of_lt _ (Nat.lt_succ_of_le hk)]
  case b => rw [cipherInit, ofBits_getLsbD_of_lt _ (Nat.lt_succ_of_le hk)]

/-- A register after a step, bit by bit: the new bit at index 0, every other bit from one index below (R24). -/
theorem shiftConcat_getLsbD_of_le {w k : Nat} (x : BitVec (w + 1)) (b : Bool) (hk : k ≤ w) :
    (x.shiftConcat b).getLsbD k = if k = 0 then b else x.getLsbD (k - 1) := by
  rw [BitVec.getLsbD_shiftConcat, decide_eq_true (Nat.lt_succ_of_le hk), Bool.true_and]

/-- Settles O13: each register is shifted once, and its new bit is the feedback of another register. -/
theorem stepComputesTapsFeedbackAndShift : Obligations.StepComputesTapsFeedbackAndShift := by
  refine ⟨fun s => ⟨rfl, fun k hk => ?a, fun k hk => ?b, fun k hk => ?c⟩, by decide⟩
  case a => exact shiftConcat_getLsbD_of_le s.a _ hk
  case b => exact shiftConcat_getLsbD_of_le s.b _ hk
  case c => exact shiftConcat_getLsbD_of_le s.c _ hk

/-! ## The keystream bytes -/

/-- What OR-ing `f 0`, …, `f (n - 1)` into a byte, each at its own index, does to bit k. -/
theorem foldl_bitAt_getLsbD (f : Nat → Bool) (n k : Nat) (byte : Byte) :
    ((List.range n).foldl (fun acc j => acc ||| bitAt (f j) j) byte).getLsbD k =
      (byte.getLsbD k || (decide (k < n ∧ k < 8) && f k)) := by
  induction n with
  | zero => simp
  | succ n ih =>
    rw [List.range_succ, List.foldl_append, List.foldl_cons, List.foldl_nil, BitVec.getLsbD_or, ih, bitAt_getLsbD]
    obtain hlt | rfl | hgt := Nat.lt_trichotomy k n
    · simp [hlt, hlt.ne, Nat.lt_succ_of_lt hlt]
    · simp
    · simp [hgt.not_gt, hgt.ne', Nat.not_lt.mpr (Nat.succ_le_of_lt hgt)]

/-- Settles O20: the byte is such an OR of eight step outputs into 0. -/
theorem keystreamBytesPackLsbFirst : Obligations.KeystreamBytesPackLsbFirst := by
  intro s i j hj
  calc (s.ksByte i).getLsbD j
      = ((0#8).getLsbD j || (decide (j < 8 ∧ j < 8) && s.keyBit (8 * i + j))) :=
        foldl_bitAt_getLsbD (fun m => s.keyBit (8 * i + m)) 8 j 0#8
    _ = s.keyBit (8 * i + j) := by simp [hj]

/-- The loop of NextByte ORs the next `k` keystream bits into the byte, from bit `j` on (R160). -/
theorem Cipher.byteLoop_byte (k j : Nat) (byte : Byte) (s : Cipher) :
    (s.byteLoop k j byte).1 = (List.range k).foldl (fun acc m => acc ||| bitAt (s.keyBit m) (j + m)) byte := by
  induction k generalizing j byte s with
  | zero => rfl
  | succ k ih =>
    have hbit : ∀ m, s.step.1.keyBit m = s.keyBit (m + 1) := fun _ => rfl
    have hfirst : s.step.2 = s.keyBit 0 := rfl
    rw [Cipher.byteLoop, ih, hfirst, List.range_succ_eq_map, List.foldl_cons, List.foldl_map]
    simp only [hbit, Nat.add_zero, Nat.succ_eq_add_one, Nat.add_assoc, Nat.add_comm 1]

/-- NextByte is the first keystream byte, and leaves the registers eight steps on (R112, R160). -/
theorem Cipher.nextByte_eq (s : Cipher) : s.nextByte = (s.ksByte 0, s.steps 8) := by
  refine Prod.ext ?_ (Cipher.byteLoop_state 8 0 0#8 s)
  calc s.nextByte.1
      = (List.range 8).foldl (fun acc m => acc ||| bitAt (s.keyBit m) (0 + m)) 0#8 := Cipher.byteLoop_byte 8 0 0#8 s
    _ = s.ksByte 0 := by simp [Cipher.ksByte]

/-- Drawing `n` bytes gives the first `n` keystream bytes (R113). -/
theorem Cipher.draw_bytes (n : Nat) (s : Cipher) : (s.draw n).1 = (List.range n).map s.ksByte := by
  induction n generalizing s with
  | zero => rfl
  | succ n ih =>
    have hbyte : ∀ i, (s.steps 8).ksByte i = s.ksByte (i + 1) := fun i => by
      rw [Nat.add_comm]; exact s.ksByte_steps 1 i
    rw [Cipher.draw_succ, Cipher.nextByte_eq, ih, List.range_succ_eq_map, List.map_cons, List.map_map]
    simp [hbyte]

theorem keystream_of_neg {n : Int} (h : n < 0) (key iv : List Byte) :
    keystream key iv n = .invalidArgument Config.lengthBytesName := if_pos h

theorem keystream_of_nonneg {n : Int} (h : 0 ≤ n) (key iv : List Byte) :
    keystream key iv n = .bytes ((keystreamStart key iv).draw n.toNat).1 := if_neg (Int.not_lt.mpr h)

/-- Settles O22, by the sign of n; the bytes drawn are the keystream bytes after the warm-up. -/
theorem keystreamIsTheFirstBytesOrInvalidArgument : Obligations.KeystreamIsTheFirstBytesOrInvalidArgument := by
  refine fun key iv n => ⟨⟨fun herr => ?_, fun hneg => keystream_of_neg hneg key iv⟩, fun hn => ?_⟩
  · by_contra hn
    rw [keystream_of_nonneg (Int.not_lt.mp hn)] at herr
    cases herr
  · rw [keystream_of_nonneg hn, Cipher.draw_bytes]
    rfl

/-- XorTransform over the keystream's bytes (R114). -/
theorem xorTransform_eq (key iv data : List Byte) : xorTransform key iv data =
    List.zipWith (· ^^^ ·) data ((List.range data.length).map (keystreamStart key iv).ksByte) := by
  rw [xorTransform, Cipher.draw_bytes]

/-- Settles O23: the two zipped lists have the data's length. -/
theorem xorTransformXorsBytewise : Obligations.XorTransformXorsBytewise := by
  intro key iv data
  rw [xorTransform_eq]
  exact ⟨by simp, fun i h => by simp [h]⟩

end Sys2Proof.Machine
end

section
/-! SUPPORT. The statements about the load commands (spec/41_load_commands.md): KEYB and IVB (R140, R141), INIT (R142),
and the warm-up engine between INIT and READY (R143, R144). -/

namespace Sys2Proof.Machine

/-! ## KEYB and IVB -/

/-- Settles O27: the decoder's branch for OPC 0x01; then the staged buffer and count, which are all KEYB writes besides
its response. -/
theorem keybStagesOneKeyByte : Obligations.KeybStagesOneKeyByte := by
  refine ⟨fun w hopc => decode_of_keyb_opc hopc, fun s data hs => ?_⟩
  obtain ⟨-, -, hkeycnt, -⟩ := (violation_eq_none_iff s).mp hs.1
  exact ⟨_, exec_keyb_of_accepting hs data, fun i => stageBuf_getElem data s.keybuf s.keycnt i.val i.isLt,
    stageCnt_toNat s.keycnt hkeycnt, rfl⟩

/-- Settles O28: as KEYB, on IVBUF and IVCNT. -/
theorem ivbStagesOneIvByte : Obligations.IvbStagesOneIvByte := by
  refine ⟨fun w hopc => decode_of_ivb_opc hopc, fun s data hs => ?_⟩
  obtain ⟨-, -, -, hivcnt⟩ := (violation_eq_none_iff s).mp hs.1
  exact ⟨_, exec_ivb_of_accepting hs data, fun i => stageBuf_getElem data s.ivbuf s.ivcnt i.val i.isLt,
    stageCnt_toNat s.ivcnt hivcnt, rfl⟩

/-! ## INIT -/

theorem decodeByte_eq_command_iff {make : Byte → Instr} {w : CmdWord} {i : Instr} :
    decodeByte make w = .command i ↔ reservedField w = 0#16 ∧ make (dataField w) = i := by
  by_cases h : reservedField w = 0#16 <;> simp [decodeByte, h]

theorem decodeNone_eq_command_iff {i j : Instr} {w : CmdWord} :
    decodeNone i w = .command j ↔ opndField w = 0#24 ∧ i = j := by
  by_cases h : opndField w = 0#24 <;> simp [decodeNone, h]

/-- A word decodes to a command only in the command's row of the opcode map (R64, R67). -/
theorem row_selects_of_decode {w : CmdWord} {i : Instr} (h : decode w = .command i) : w &&& rowMask i = rowMatch i := by
  obtain ho | ho | ho | ho | ho | ho | ho := opcField_cases w
  · obtain ⟨hreserved, rfl⟩ := decodeByte_eq_command_iff.mp (decode_of_keyb_opc ho ▸ h)
    exact (byteRow_selects_iff w 0x01#8).mpr ⟨ho, hreserved⟩
  · obtain ⟨hreserved, rfl⟩ := decodeByte_eq_command_iff.mp (decode_of_ivb_opc ho ▸ h)
    exact (byteRow_selects_iff w 0x02#8).mpr ⟨ho, hreserved⟩
  · obtain ⟨hopnd, rfl⟩ := decodeNone_eq_command_iff.mp (decode_of_init_opc ho ▸ h)
    exact (noneRow_selects_iff w 0x03#8).mpr ⟨ho, hopnd⟩
  · cases (decode_of_gen_opc ho).symm.trans h
    exact (lengthRow_selects_iff w 0x04#8).mpr ho
  · obtain ⟨hreserved, rfl⟩ := decodeByte_eq_command_iff.mp (decode_of_xorb_opc ho ▸ h)
    exact (byteRow_selects_iff w 0x05#8).mpr ⟨ho, hreserved⟩
  · obtain ⟨hopnd, rfl⟩ := decodeNone_eq_command_iff.mp (decode_of_stat_opc ho ▸ h)
    exact (noneRow_selects_iff w 0x06#8).mpr ⟨ho, hopnd⟩
  · cases (decode_of_undefined_opc ho).symm.trans h

/-- The row of INIT holds one word (R61, R64). -/
theorem decode_eq_init_iff (w : CmdWord) : decode w = .command .init ↔ w = 0x03000000#32 := by
  constructor
  · intro h
    calc w = w &&& BitVec.allOnes 32 := BitVec.and_allOnes.symm
      _ = 0x03000000#32 := row_selects_of_decode h
  · rintro rfl
    exact decode_of_noneRow (opc := 0x03#8) decode_of_init_opc rfl

/-- A state that has just loaded its session is one the spec allows. -/
@[simp] theorem loadSession_violation (s : State) : (loadSession s).violation = none := rfl

/-- Settles O29: INIT is one `loadSession` and one `respond`; with an unbounded channel it is not held, and it leaves
empty staging buffers for a second INIT. -/
theorem initLoadsTheSessionAndClearsStaging : Obligations.InitLoadsTheSessionAndClearsStaging := by
  refine ⟨decode_eq_init_iff, fun s hs => exec_init_of_accepting hs, fun s t hcap h => ?_⟩
  have hroom : s.channelFull = false := channelFull_of_unbounded hcap
  obtain ⟨hallowed, -⟩ := perform_eq_next (exec_init_eq s ▸ h)
  obtain rfl : respond .ok [] (loadSession s) = t := by
    simpa [exec_init_of_accepting ⟨hallowed, hroom⟩] using h
  have hs' : (respond .ok [] (loadSession s)).accepting :=
    ⟨loadSession_violation s, channelFull_of_unbounded hcap⟩
  exact ⟨_, exec_init_of_accepting hs', rfl⟩

/-! ## The warm-up engine -/

/-- A warm-up step sets READY exactly when it raises WCNT to 1152 (R143, R144). -/
theorem wstep_phase_of_warmup {s : State} (hp : s.phase = .warmup) (hle : s.wcnt.toNat ≤ 1151) :
    (wstep s).phase = if s.wcnt.toNat + 1 = 1152 then .ready else .warmup := by
  have hlast : s.wcnt + 1#11 = 1152#11 ↔ s.wcnt.toNat + 1 = 1152 := by
    rw [← BitVec.toNat_inj, wcnt_succ_toNat hle]
    rfl
  simp only [wstep_phase, hlast, hp]

/-- Settles O8: a warm-up turn is `wstep` in WARMUP and nothing elsewhere; INIT is `loadSession`. -/
theorem warmupStepEffect : Obligations.WarmupStepEffect := by
  refine ⟨fun s hallowed hp hle => ?step, fun s hallowed hp => ?disabled, fun s hs _ => ?init⟩
  case step =>
    exact ⟨wstep s, warmupTurn_of_warmup hallowed hp, wstep_cipher s, wcnt_succ_toNat hle,
      wstep_phase_of_warmup hp hle, rfl⟩
  case disabled => exact warmupTurn_of_not_warmup hallowed hp
  case init => exact ⟨_, exec_init_of_accepting hs, loadSession_phase s, loadSession_wcnt s⟩

/-- The state `k` warm-up steps after `s`, as long as WCNT stays within 1152 (R143, R144). -/
def State.warmed (s : State) (k : Nat) : State :=
  { s with
    cipher := s.cipher.steps k
    wcnt := s.wcnt + BitVec.ofNat 11 k
    phase := if s.wcnt.toNat + k = 1152 then .ready else .warmup }

section
variable {s : State} {k : Nat}

theorem warmed_zero (hp : s.phase = .warmup) (hle : s.wcnt.toNat ≤ 1151) : s.warmed 0 = s := by
  have hphase : (if s.wcnt.toNat + 0 = 1152 then Phase.ready else .warmup) = s.phase := by
    rw [hp, if_neg (by omega)]
  rw [State.warmed, hphase, BitVec.add_zero, Cipher.steps_zero]

/-- WCNT does not wrap on the way to 1152 (R28). -/
theorem warmed_wcnt_toNat (hle : s.wcnt.toNat + k ≤ 1152) : (s.warmed k).wcnt.toNat = s.wcnt.toNat + k := by
  simp only [State.warmed, BitVec.toNat_add, BitVec.toNat_ofNat]
  omega

/-- WARMUP lasts until WCNT is 1152 (R144). -/
theorem warmed_phase_of_lt (hlt : s.wcnt.toNat + k < 1152) : (s.warmed k).phase = .warmup :=
  if_neg (Nat.ne_of_lt hlt)

/-- The spec allows every state on the way to READY. -/
theorem warmed_violation (hallowed : s.violation = none) (hle : s.wcnt.toNat + k ≤ 1152) :
    (s.warmed k).violation = none := by
  obtain ⟨-, -, hkeycnt, hivcnt⟩ := (violation_eq_none_iff s).mp hallowed
  refine (violation_eq_none_iff _).mpr ⟨?_, (warmed_wcnt_toNat hle).trans_le hle, hkeycnt, hivcnt⟩
  simp only [State.warmed]
  split <;> nofun

/-- One warm-up step more (R143). -/
theorem wstep_warmed (hlt : s.wcnt.toNat + k < 1152) : wstep (s.warmed k) = s.warmed (k + 1) := by
  have hcipher : (s.cipher.steps k).step.1 = s.cipher.steps (k + 1) := (Cipher.steps_succ' k s.cipher).symm
  have hwcnt : s.wcnt + BitVec.ofNat 11 k + 1#11 = s.wcnt + BitVec.ofNat 11 (k + 1) := by
    rw [BitVec.add_assoc, ← BitVec.ofNat_add]
  have hphase : (wstep (s.warmed k)).phase = (s.warmed (k + 1)).phase := by
    have hcount := warmed_wcnt_toNat (Nat.le_of_lt hlt)
    rw [wstep_phase_of_warmup (warmed_phase_of_lt hlt) (by omega), hcount]
    rfl
  calc wstep (s.warmed k)
      = { s with
          cipher := (s.cipher.steps k).step.1
          wcnt := s.wcnt + BitVec.ofNat 11 k + 1#11
          phase := (wstep (s.warmed k)).phase } := rfl
    _ = s.warmed (k + 1) := by rw [hcipher, hwcnt, hphase]; rfl

/-- `k` warm-up turns are `k` warm-up steps, as long as WCNT stays within 1152 (R143, R144). The last turn is split off,
so that the turns before it run with it on the schedule. -/
theorem run_warmupTurns (hallowed : s.violation = none) (hp : s.phase = .warmup) (hwcnt : s.wcnt.toNat ≤ 1151)
    (hle : s.wcnt.toNat + k ≤ 1152) :
    Host.Core.run Sys2Proof.core k { s with schedule := List.replicate k .warmup ++ s.schedule } =
      .next (s.warmed k) := by
  induction k generalizing s with
  | zero => rw [warmed_zero hp hwcnt]; rfl
  | succ k ih =>
    have hlt : s.wcnt.toNat + k < 1152 := hle
    have hfirst := ih (s := s.giveTurn .warmup) hallowed hp hwcnt (Nat.le_of_lt hlt)
    have hlast : step ((s.warmed k).giveTurn .warmup) = .next (s.warmed (k + 1)) := by
      rw [step_giveTurn, ← wstep_warmed hlt]
      exact warmupTurn_of_warmup (warmed_violation hallowed (Nat.le_of_lt hlt)) (warmed_phase_of_lt hlt)
    have hschedule : List.replicate (k + 1) Turn.warmup ++ s.schedule =
        List.replicate k .warmup ++ (s.giveTurn .warmup).schedule := by
      rw [List.replicate_succ', List.append_assoc]
      rfl
    rw [hschedule]
    exact run_trans hfirst (run_succ_of_step hlast 0)

end

/-- Settles O9: `warmed` from the WCNT of 0 that INIT leaves. -/
theorem warmupTakesExactly1152Steps : Obligations.WarmupTakesExactly1152Steps := by
  refine ⟨fun s hs => ⟨_, exec_init_of_accepting hs, fun k hk => ?warm⟩, fun s hallowed hp => ?ready,
    fun i s t hi h => exec_phase_wcnt_of_ne_init hi h⟩
  case warm =>
    have hcount : (respond .ok [] (loadSession s)).wcnt.toNat + k = k := Nat.zero_add k
    have hrun := run_warmupTurns (s := respond .ok [] (loadSession s)) (loadSession_violation s)
      (loadSession_phase s) (by simp) (hcount.trans_le hk)
    refine ⟨_, hrun, ?_, ?_, rfl, rfl⟩
    · rw [warmed_wcnt_toNat (by omega), hcount]
    · simp only [State.warmed, hcount]
  case ready => exact warmupTurn_of_not_warmup hallowed (by simp [hp])

end Sys2Proof.Machine
end


section
/-! SUPPORT. The statements about the keystream commands (spec/42_keystream_commands.md): GEN (R161) and XORB (R162). -/

namespace Sys2Proof.Machine

/-- Drawing `n` bytes leaves the registers 8·n steps on (R161). -/
theorem Cipher.draw_state (n : Nat) (s : Cipher) : (s.draw n).2 = s.steps (8 * n) := by
  induction n generalizing s with
  | zero => rfl
  | succ n ih => rw [Cipher.draw_succ, Cipher.nextByte_eq, ih, ← Cipher.steps_add, Nat.mul_succ, Nat.add_comm]

/-- After drawing keystream the block accepts the next command, if the channel is unbounded: a draw writes neither PHASE
nor a count (R33). -/
theorem respond_withCipher_accepting {s : State} (hs : s.violation = none) (hcap : s.respCap = none) (code : Code)
    (payload : List Byte) (c : Cipher) : (respond code payload { s with cipher := c }).accepting :=
  ⟨hs, channelFull_of_unbounded hcap⟩

section
variable {s : State} (hs : s.accepting) (hp : s.phase = .ready)
include hs hp

/-- GEN in READY over the keystream's bytes and the steps they take (R161). -/
theorem exec_gen_of_ready {n : Int} (hn : 0 ≤ n) :
    exec (.gen n) s = .next (respond .ok ((List.range n.toNat).map s.cipher.ksByte)
      { s with cipher := s.cipher.steps (8 * n.toNat) }) := by
  rw [exec_gen_of_accepting hs hn, whenReady_of_ready hp, Cipher.draw_bytes, Cipher.draw_state]

/-- XORB in READY over the next keystream byte (R162). -/
theorem exec_xorb_of_ready (data : Byte) :
    exec (.xorb data) s = .next (respond .ok [data ^^^ s.cipher.ksByte 0]
      { s with cipher := s.cipher.steps 8 }) := by
  rw [exec_xorb_of_accepting hs, whenReady_of_ready hp, Cipher.nextByte_eq]

end

/-- Settles O30: the decoder's row of GEN; then the checks in order, the sign of n before the phase. -/
theorem genGeneratesKeystream : Obligations.GenGeneratesKeystream := by
  refine ⟨fun w hw => decode_of_gen_opc ((lengthRow_selects_iff w 0x04#8).mp hw), fun s n hs =>
    ⟨fun hneg => ?negative, fun hn hp => ?idle, fun hn hp => ?warmup, fun hn hp => ?ready⟩⟩
  case negative => exact exec_gen_neg_of_accepting hs hneg
  case idle => exact (exec_gen_of_accepting hs hn).trans (whenReady_of_idle hp _)
  case warmup => exact (exec_gen_of_accepting hs hn).trans (whenReady_of_warmup hp _)
  case ready => exact exec_gen_of_ready hs hp hn

/-- After `GEN a` the next XORB uses keystream byte a, for GEN leaves the registers 8·a steps on (R162). -/
theorem exec_xorb_after_gen {s : State} (hs : s.violation = none) (hcap : s.respCap = none) (hp : s.phase = .ready)
    (a : Nat) (data : Byte) : ∃ t u, exec (.gen a) s = .next t ∧ exec (.xorb data) t = .next u ∧
      u.responses = t.responses ++ [⟨.ok, [data ^^^ s.cipher.ksByte a]⟩] := by
  have hgen := exec_gen_of_ready ⟨hs, channelFull_of_unbounded hcap⟩ hp (Int.natCast_nonneg a)
  refine ⟨_, _, hgen, exec_xorb_of_ready (respond_withCipher_accepting hs hcap ..) hp data, ?_⟩
  have hbyte : (s.cipher.steps (8 * a)).ksByte 0 = s.cipher.ksByte a := s.cipher.ksByte_steps a 0
  simp [hbyte]

/-- Settles O31: the decoder's branch for OPC 0x05 and the phase checks; two XORBs from equal registers use one
keystream byte, and XORing it twice cancels. -/
theorem xorbXorsTheNextKeystreamByte : Obligations.XorbXorsTheNextKeystreamByte := by
  refine ⟨fun w hopc => decode_of_xorb_opc hopc, fun s data hs =>
    ⟨fun hp => ?idle, fun hp => ?warmup, fun hp => exec_xorb_of_ready hs hp data⟩,
    fun s a data hs hcap hp => exec_xorb_after_gen hs hcap hp a data,
    fun s s' data hs hs' hp hp' hcipher => ?undo⟩
  case idle => exact (exec_xorb_of_accepting hs data).trans (whenReady_of_idle hp _)
  case warmup => exact (exec_xorb_of_accepting hs data).trans (whenReady_of_warmup hp _)
  case undo =>
    refine ⟨_, _, _, exec_xorb_of_ready hs hp data, rfl, exec_xorb_of_ready hs' hp' _, ?_, ?_⟩
    · rw [respond_responses, hcipher, BitVec.xor_assoc, BitVec.xor_self, BitVec.xor_zero]
    · simp [hcipher]

end Sys2Proof.Machine
end

section
/-! SUPPORT. The statement about the status command (spec/43_status_command.md R180): the value and the bytes of STATUS,
and what a session's later STAT can see of WCNT. -/

namespace Sys2Proof.Machine

/-- The row of STAT holds one word (R61, R64). -/
theorem decode_eq_stat_iff (w : CmdWord) : decode w = .command .stat ↔ w = 0x06000000#32 := by
  constructor
  · intro h
    obtain ⟨hopc, hopnd⟩ := (noneRow_selects_iff w 0x06#8).mp (row_selects_of_decode h)
    rw [← packWord_fields w, hopc, hopnd]
    rfl
  · rintro rfl
    exact decode_of_noneRow (opc := 0x06#8) decode_of_stat_opc rfl

/-- Concatenated words as a number: the parts do not overlap, so the OR is a sum. -/
theorem toNat_append_eq_mul_add {m n : Nat} (x : BitVec m) (y : BitVec n) :
    (x ++ y).toNat = x.toNat * 2 ^ n + y.toNat := by
  rw [BitVec.toNat_append, ← Nat.shiftLeft_add_eq_or_of_lt y.isLt, Nat.shiftLeft_eq]

/-- STATUS as a number, from its fields side by side (R32). -/
theorem status_toNat (s : State) : s.status.toNat =
    s.phase.bits.toNat + 4 * s.keycnt.toNat + 64 * s.ivcnt.toNat + 1024 * s.wcnt.toNat := by
  simp only [status_eq_append, toNat_append_eq_mul_add, BitVec.toNat_ofNat]
  omega

/-- The four bytes of a word, least significant first, add up to it (R44). -/
theorem word_toNat_eq_bytes (w : BitVec 32) :
    (w.extractLsb' 0 8).toNat + 2 ^ 8 * (w.extractLsb' 8 8).toNat + 2 ^ 16 * (w.extractLsb' 16 8).toNat +
      2 ^ 24 * (w.extractLsb' 24 8).toNat = w.toNat := by
  have hw := w.isLt
  simp only [BitVec.extractLsb'_toNat, Nat.shiftRight_eq_div_pow]
  omega

/-- In READY with empty staging STATUS is 0x00120002 (R180). -/
theorem statusBytes_of_ready {s : State} (hp : s.phase = .ready) (hwcnt : s.wcnt = 1152#11)
    (hkeycnt : s.keycnt = 0#4) (hivcnt : s.ivcnt = 0#4) : s.statusBytes = [0x02, 0x00, 0x12, 0x00] := by
  have hstatus : s.status = 0x00120002#32 := by
    rw [status_eq_append, hp, hwcnt, hkeycnt, hivcnt]
    decide
  rw [State.statusBytes, hstatus]
  decide

/-- Under the invariant WCNT is 1152 in READY (R31). -/
theorem State.Inv.wcnt_of_ready {s : State} (h : s.Inv) (hp : s.phase = .ready) : s.wcnt = 1152#11 := by
  simpa [State.PhaseInv, hp] using h.1

/-- Within a session WCNT never falls: the writers that lower it are INIT and the reset (R28). -/
theorem State.Inv.wcnt_le_of_step {s t : State} (hinv : s.Inv) (h : step s = .next t) (hinit : ¬ Performed .init s t)
    (hreset : ∀ rest, s.schedule ≠ .reset :: rest) : s.wcnt.toNat ≤ t.wcnt.toNat := by
  obtain ⟨-, hw⟩ | ⟨hi, -⟩ | ⟨hp, -, hw⟩ | ⟨⟨rest, hr⟩, -⟩ := step_phase_wcnt h
  · exact hw ▸ Nat.le_refl _
  · exact absurd hi hinit
  · rw [hw, wcnt_succ_toNat (hinv.wcnt_le_of_warmup hp)]
    exact Nat.le_succ _
  · exact absurd hr (hreset rest)

/-- Settles O32: STAT answers the bytes of STATUS and is one `respond`; WCNT by the invariant and by its writers. -/
theorem statReportsStatus : Obligations.StatReportsStatus := by
  refine ⟨decode_eq_stat_iff, fun s hs => ?value, fun s hs hp hwcnt hkeycnt hivcnt => ?ready,
    fun s hinv hp => hinv.wcnt_le_of_warmup hp, fun s hinv hp => ?full,
    fun s t hinv h hinit hreset => hinv.wcnt_le_of_step h hinit hreset⟩
  case value =>
    exact ⟨_, _, _, _, exec_stat_of_accepting hs, (word_toNat_eq_bytes s.status).trans (status_toNat s)⟩
  case ready =>
    exact statusBytes_of_ready hp hwcnt hkeycnt hivcnt ▸ exec_stat_of_accepting hs
  case full => rw [hinv.wcnt_of_ready hp, BitVec.toNat_ofNat]

end Sys2Proof.Machine
end

section
/-! SUPPORT. The statements about errors, outcomes and holds (spec/60_exceptions.md R201, R202, R205), with what a turn of
the command port does to a head word that waits for READY. -/

namespace Sys2Proof.Machine

/-! ## Errors -/

/-- A command that gets an error response is that one `respond`, on the state as it was (R201). -/
theorem exec_eq_respond_of_error {i : Instr} {s t : State} {code : Code} {payload : List Byte} (hcode : code ≠ .ok)
    (h : exec i s = .next t) (hr : t.responses = s.responses ++ [⟨code, payload⟩]) : t = respond code payload s := by
  obtain ⟨-, rfl | ⟨-, hc⟩⟩ := exec_cases h
  · simp at hr
  · obtain ⟨_, -, rfl⟩ | ⟨_, -, rfl⟩ | ⟨-, rfl⟩ | ⟨_, -, -, rfl⟩ | ⟨_, -, -, -, rfl⟩ | ⟨_, -, -, -, rfl⟩ |
      ⟨_, -, -, rfl⟩ | ⟨_, -, -, rfl⟩ | ⟨-, rfl⟩ := hc
    all_goals obtain ⟨rfl, rfl⟩ := respond_response_inj rfl hr
    exacts [absurd rfl hcode, absurd rfl hcode, absurd rfl hcode, rfl, rfl, absurd rfl hcode, rfl, absurd rfl hcode,
      rfl]

/-- A command turn that delivers an error response had a head word, and is that one `respond` (R201). -/
theorem commandTurn_eq_respond_of_error {s t : State} {code : Code} {payload : List Byte} (hcode : code ≠ .ok)
    (h : commandTurn s = .next t) (hr : t.responses = s.responses ++ [⟨code, payload⟩]) :
    (∃ w cs, s.commands = w :: cs) ∧ t = respond code payload s := by
  obtain ⟨-, -, rfl⟩ | ⟨w, cs, i, hs, -, hi⟩ | ⟨w, cs, why, hs, -, hi⟩ := commandTurn_cases h
  · simp at hr
  · exact ⟨⟨w, cs, hs⟩, exec_eq_respond_of_error hcode hi hr⟩
  · obtain rfl | rfl := execIllegal_cases hi
    · simp at hr
    · obtain ⟨rfl, rfl⟩ := respond_response_inj rfl hr
      exact ⟨⟨w, cs, hs⟩, rfl⟩

/-- Settles O36: `respond` consumes the head word, adds its response and writes nothing else. -/
theorem errorsArePrecise : Obligations.ErrorsArePrecise := by
  intro s t code payload hcode h hr
  obtain ⟨⟨w, cs, hs⟩, rfl⟩ := commandTurn_eq_respond_of_error (s := s) hcode h hr
  exact ⟨w, by simp [hs], rfl⟩

/-! ## Outcomes -/

/-- The commands that wait for READY are GEN with n ≥ 0 and XORB (R205). -/
theorem waitsForReady_iff (d : Decoded) : waitsForReady d = true ↔
    (∃ n, d = .command (.gen n) ∧ 0 ≤ n) ∨ ∃ data, d = .command (.xorb data) := by
  cases d with
  | illegal why => simp [waitsForReady]
  | command i => cases i <;> simp [waitsForReady]

/-- A command that waits for READY is the phase checks, and in READY an OK response that writes the registers only
(R161, R162). -/
theorem commandTurn_of_waitsForReady {s : State} {w : CmdWord} {cs : List CmdWord} (hs : s.accepting)
    (hcs : s.commands = w :: cs) (hw : waitsForReady (decode w) = true) :
    ∃ k payload c, commandTurn s = whenReady s k ∧ k s = .next (respond .ok payload { s with cipher := c }) := by
  obtain ⟨n, hd, hn⟩ | ⟨data, hd⟩ := (waitsForReady_iff _).mp hw
  · exact ⟨_, _, _, (commandTurn_of_command hcs hd).trans (exec_gen_of_accepting hs hn), rfl⟩
  · exact ⟨_, _, _, (commandTurn_of_command hcs hd).trans (exec_xorb_of_accepting hs data), rfl⟩

/-- The last three checks of R202, for a word that waits for READY. -/
theorem exists_outcome_of_waitsForReady {s : State} {w : CmdWord} (hs : s.accepting)
    (hw : waitsForReady (decode w) = true) :
    ∃ t, commandTurn (s.withHead w) = .next t ∧
      if s.phase = .idle then
        t.commands = s.commands ∧ t.responses = s.responses ++ [⟨.notInitialized, []⟩]
      else if s.phase = .warmup then t = s.withHead w
      else t.commands = s.commands ∧ ∃ payload, t.responses = s.responses ++ [⟨.ok, payload⟩] := by
  obtain ⟨k, payload, c, hturn, hk⟩ :=
    commandTurn_of_waitsForReady (withHead_accepting hs w) (s.withHead_commands w) hw
  obtain ⟨hreserved, -⟩ := (violation_eq_none_iff s).mp hs.1
  cases hp : s.phase with
  | idle => exact ⟨_, hturn.trans (whenReady_of_idle (s := s.withHead w) hp k), rfl, rfl⟩
  | warmup => exact ⟨_, hturn.trans (whenReady_of_warmup (s := s.withHead w) hp k), rfl⟩
  | ready => exact ⟨_, hturn.trans ((whenReady_of_ready (s := s.withHead w) hp k).trans hk), rfl, payload, rfl⟩
  | reserved => exact absurd hp hreserved

/-- Settles O37: the illegal words, then GEN by the sign of n; GEN with n ≥ 0 and XORB by the phase, and the other
commands by what each answers in an accepting state. -/
theorem outcomePriority : Obligations.OutcomePriority := by
  intro s w hs
  rw [step_giveTurn]
  have hs' := withHead_accepting hs w
  have hcs := s.withHead_commands w
  cases hd : decode w with
  | illegal why => exact ⟨_, (commandTurn_of_illegal hcs hd).trans (execIllegal_of_accepting hs'), rfl, rfl⟩
  | command i =>
    have hturn := commandTurn_of_command hcs hd
    cases i with
    | keyb data => exact ⟨_, hturn.trans (exec_keyb_of_accepting hs' data), rfl, _, rfl⟩
    | ivb data => exact ⟨_, hturn.trans (exec_ivb_of_accepting hs' data), rfl, _, rfl⟩
    | init => exact ⟨_, hturn.trans (exec_init_of_accepting hs'), rfl, _, rfl⟩
    | gen n =>
      by_cases hn : n < 0
      · exact ⟨_, hturn.trans (exec_gen_neg_of_accepting hs' hn), by simp [hn]⟩
      · simp only [hn, if_false]
        exact exists_outcome_of_waitsForReady hs ((waitsForReady_iff _).mpr (.inl ⟨n, hd, Int.not_lt.mp hn⟩))
    | xorb data => exact exists_outcome_of_waitsForReady hs ((waitsForReady_iff _).mpr (.inr ⟨data, hd⟩))
    | stat => exact ⟨_, hturn.trans (exec_stat_of_accepting hs'), rfl, _, rfl⟩

/-! ## Holds -/

/-- A word is held by a full channel, or by the warm-up if it waits for READY (R192, R205). -/
theorem holds_iff (s : State) (w : CmdWord) :
    s.holds w = true ↔ s.channelFull = true ∨ (s.phase = .warmup ∧ waitsForReady (decode w) = true) := by
  simp [State.holds]

/-- With an unbounded channel only the warm-up holds a word (R205). -/
theorem waitsForReady_of_holds {s : State} {w : CmdWord} (hcap : s.respCap = none) (h : s.holds w = true) :
    waitsForReady (decode w) = true := by
  obtain hfull | ⟨-, hw⟩ := (holds_iff s w).mp h
  · simp [hcap] at hfull
  · exact hw

/-- Every command is under back-pressure (D23). -/
theorem exec_eq_perform (i : Instr) (s : State) : ∃ k, exec i s = perform s k := by
  cases i with
  | keyb data => exact ⟨_, exec_keyb_eq data s⟩
  | ivb data => exact ⟨_, exec_ivb_eq data s⟩
  | init => exact ⟨_, exec_init_eq s⟩
  | gen n => exact ⟨_, exec_gen_eq n s⟩
  | xorb data => exact ⟨_, exec_xorb_eq data s⟩
  | stat => exact ⟨_, exec_stat_eq s⟩

/-- A full channel holds whatever word stands at the head (R192). -/
theorem commandTurn_of_full {s : State} (hallowed : s.violation = none) (hfull : s.channelFull = true) :
    commandTurn s = .next s := by
  cases hcs : s.commands with
  | nil => simp [commandTurn, hcs, guarded_of_none hallowed]
  | cons w cs =>
    cases hd : decode w with
    | illegal why => exact (commandTurn_of_illegal hcs hd).trans (perform_of_full hallowed hfull _)
    | command i =>
      obtain ⟨k, hk⟩ := exec_eq_perform i s
      exact ((commandTurn_of_command hcs hd).trans hk).trans (perform_of_full hallowed hfull k)

/-- A held head word changes nothing and stays at the head (R205). -/
theorem commandTurn_of_holds {s : State} {w : CmdWord} {cs : List CmdWord} (hallowed : s.violation = none)
    (hcs : s.commands = w :: cs) (h : s.holds w = true) : commandTurn s = .next s := by
  cases hfull : s.channelFull with
  | true => exact commandTurn_of_full hallowed hfull
  | false =>
    obtain ⟨hp, hw⟩ : s.phase = .warmup ∧ waitsForReady (decode w) = true := by
      simpa [hfull] using (holds_iff s w).mp h
    obtain ⟨k, -, -, hturn, -⟩ := commandTurn_of_waitsForReady ⟨hallowed, hfull⟩ hcs hw
    exact hturn.trans (whenReady_of_warmup hp k)

/-- In WARMUP a held head word leaves the move to the warm-up engine, where the schedule names no turn (R52). -/
theorem step_of_held_in_warmup {s : State} {w : CmdWord} {cs : List CmdWord} (hschedule : s.schedule = [])
    (hp : s.phase = .warmup) (hcs : s.commands = w :: cs) (h : s.holds w = true) : step s = warmupTurn s := by
  simp [step, advance, hschedule, hp, State.headCanMove, hcs, h, runTurn]

/-- While a word that waits for READY stands at the head, the machine's own steps are warm-up steps until WCNT is 1152
(R143, R205). -/
theorem run_held_warmup {s : State} {w : CmdWord} {cs : List CmdWord} (hallowed : s.violation = none)
    (hschedule : s.schedule = []) (hp : s.phase = .warmup) (hwcnt : s.wcnt.toNat ≤ 1151) (hcs : s.commands = w :: cs)
    (hw : waitsForReady (decode w) = true) {k : Nat} (hle : s.wcnt.toNat + k ≤ 1152) :
    Host.Core.run Sys2Proof.core k s = .next (s.warmed k) := by
  induction k with
  | zero => rw [run_zero, warmed_zero hp hwcnt]
  | succ k ih =>
    have hlt : s.wcnt.toNat + k < 1152 := hle
    have hphase := warmed_phase_of_lt hlt
    have hstep : step (s.warmed k) = .next (s.warmed (k + 1)) :=
      calc step (s.warmed k)
          = warmupTurn (s.warmed k) :=
            step_of_held_in_warmup hschedule hphase hcs ((holds_iff _ w).mpr (.inr ⟨hphase, hw⟩))
        _ = .next (wstep (s.warmed k)) := warmupTurn_of_warmup (warmed_violation hallowed hlt.le) hphase
        _ = .next (s.warmed (k + 1)) := by rw [wstep_warmed hlt]
    exact run_trans (ih hlt.le) (run_succ_of_step hstep 0)

/-- The invariant leaves out the states of R214. -/
theorem State.Inv.violation_eq_none {s : State} (h : s.Inv) : s.violation = none := by
  have hwcnt := h.wcnt_le
  obtain ⟨hphase, ⟨hkeycnt, -⟩, ⟨hivcnt, -⟩, -⟩ := h
  refine (violation_eq_none_iff s).mpr ⟨fun hp => ?_, hwcnt, hkeycnt, hivcnt⟩
  simp [State.PhaseInv, hp] at hphase

/-- The state after a reset is one the spec allows (R230). -/
@[simp] theorem resetBlock_violation (s : State) : (resetBlock s).violation = none := rfl

/-- Settles O38: a held word is one the phase checks hold or a full channel; the warm-up engine then makes every step up
to READY, and after a reset the phase checks meet IDLE. -/
theorem holdsAndHowTheyLift : Obligations.HoldsAndHowTheyLift := by
  refine ⟨fun s w => ?held, fun s w hallowed h => ?stays, fun s w hinv hcap hschedule hp h => ?ready,
    fun s w hallowed hcap hp h => ?reset⟩
  case held => rw [holds_iff, waitsForReady_iff]
  case stays => exact commandTurn_of_holds (s := s.withHead w) hallowed (s.withHead_commands w) h
  case ready =>
    have hwcnt := hinv.wcnt_le_of_warmup hp
    have hdone : (s.withHead w).wcnt.toNat + (1152 - s.wcnt.toNat) = 1152 := Nat.add_sub_cancel' hinv.wcnt_le
    have hready : ((s.withHead w).warmed (1152 - s.wcnt.toNat)).phase = .ready := if_pos hdone
    have hroom : ((s.withHead w).warmed (1152 - s.wcnt.toNat)).channelFull = false := channelFull_of_unbounded hcap
    exact ⟨_, run_held_warmup (s := s.withHead w) hinv.violation_eq_none hschedule hp hwcnt (s.withHead_commands w)
      (waitsForReady_of_holds hcap h) hdone.le, hready, rfl, rfl, by simp [State.holds, hready, hroom]⟩
  case reset =>
    have hs : (resetBlock (s.withHead w)).accepting := ⟨resetBlock_violation _, channelFull_of_unbounded hcap⟩
    obtain ⟨k, -, -, hturn, -⟩ := commandTurn_of_waitsForReady hs rfl (waitsForReady_of_holds hcap h)
    exact ⟨resetBlock (s.withHead w), _, runTurn_reset_of_allowed hallowed, rfl,
      hturn.trans (whenReady_of_idle (resetBlock_phase _) k), rfl, rfl⟩

end Sys2Proof.Machine
end

section
/-! SUPPORT. The statement about the reset event (spec/70_reset_and_hazards.md R230): what the reset writes, and what a
command that waits for READY then answers. -/

namespace Sys2Proof.Machine

/-- In IDLE a command that waits for READY is answered NOT_INITIALIZED, its only effect (R161, R162). -/
theorem commandTurn_of_waitsForReady_of_idle {s : State} {w : CmdWord} {cs : List CmdWord} (hs : s.accepting)
    (hp : s.phase = .idle) (hcs : s.commands = w :: cs) (hw : waitsForReady (decode w) = true) :
    commandTurn s = .next (respond .notInitialized [] s) := by
  obtain ⟨k, -, -, hturn, -⟩ := commandTurn_of_waitsForReady hs hcs hw
  exact hturn.trans (whenReady_of_idle hp k)

/-- With an unbounded channel the state after a reset is ready to perform a command (R230). -/
theorem resetBlock_accepting {s : State} (hcap : s.respCap = none) : (resetBlock s).accepting :=
  ⟨resetBlock_violation s, channelFull_of_unbounded hcap⟩

/-- Settles O43: the reset writes the fields of R20 only, so the head word is still there and meets IDLE. -/
theorem resetEventEffect : Obligations.ResetEventEffect := by
  refine ⟨fun s hallowed => runTurn_reset_of_allowed hallowed, fun s t u w cs hcs hcap hw hreset hcommand => ?_⟩
  obtain ⟨-, rfl⟩ := resetTurn_cases (s := s) hreset
  have hturn : commandTurn (resetBlock s) = .next (respond .notInitialized [] (resetBlock s)) :=
    commandTurn_of_waitsForReady_of_idle (resetBlock_accepting hcap) (resetBlock_phase s) hcs
      ((waitsForReady_iff _).mpr hw)
  have hu : respond .notInitialized [] (resetBlock s) = u := Host.Outcome.next.inj (hturn.symm.trans hcommand)
  rw [← hu, respond, resetBlock_commands, hcs, resetBlock_responses, List.tail_cons]

end Sys2Proof.Machine
end

section
/-! SUPPORT. The statements about decoding and encoding in both directions (spec/30_encoding.md R64, R67, R70, R72). -/

namespace Sys2Proof.Machine

/-- Settles O1: a byte or no operand comes back from its row of the opcode map, a length in range from its field. -/
theorem decodeOfEncodeGivesTheCommand : Obligations.DecodeOfEncodeGivesTheCommand := by
  intro i hwf
  cases i with
  | keyb data =>
    rw [decode_of_byteRow (opc := 0x01#8) decode_of_keyb_opc (Laws.EncodedRow.keyb data), encode, dataField_packWord]
  | ivb data =>
    rw [decode_of_byteRow (opc := 0x02#8) decode_of_ivb_opc (Laws.EncodedRow.ivb data), encode, dataField_packWord]
  | init => exact (decode_eq_init_iff _).mpr rfl
  | gen n =>
    obtain ⟨hmin, hmax⟩ := (wellFormed_gen_iff n).mp hwf
    rw [encode, decode_of_gen_opc (opcField_packWord ..), lengthField, opndField_packWord, toInt_lengthOpnd hmin hmax]
  | xorb data =>
    rw [decode_of_byteRow (opc := 0x05#8) decode_of_xorb_opc (Laws.EncodedRow.xorb data), encode, dataField_packWord]
  | stat => exact (decode_eq_stat_iff _).mpr rfl

/-- A word of form B is written again from its data byte (R62). -/
theorem packWord_byteOpnd_dataField {w : CmdWord} {opc : BitVec 8} (hopc : opcField w = opc)
    (hreserved : reservedField w = 0#16) : packWord opc (byteOpnd (dataField w)) = w := by
  rw [byteOpnd_dataField hreserved, ← hopc, packWord_fields]

/-- A word of form N is written again from its OPC (R61). -/
theorem packWord_zero_of_opndField {w : CmdWord} {opc : BitVec 8} (hopc : opcField w = opc)
    (hopnd : opndField w = 0#24) : packWord opc 0#24 = w := by
  rw [← hopnd, ← hopc, packWord_fields]

/-- Settles O2: by OPC, each form is written again from what it was decoded to. -/
theorem encodeOfDecodeGivesTheWord : Obligations.EncodeOfDecodeGivesTheWord := by
  intro w i h
  obtain ho | ho | ho | ho | ho | ho | ho := opcField_cases w
  · obtain ⟨hreserved, rfl⟩ := decodeByte_eq_command_iff.mp (decode_of_keyb_opc ho ▸ h)
    exact ⟨rfl, packWord_byteOpnd_dataField ho hreserved⟩
  · obtain ⟨hreserved, rfl⟩ := decodeByte_eq_command_iff.mp (decode_of_ivb_opc ho ▸ h)
    exact ⟨rfl, packWord_byteOpnd_dataField ho hreserved⟩
  · obtain ⟨hopnd, rfl⟩ := decodeNone_eq_command_iff.mp (decode_of_init_opc ho ▸ h)
    exact ⟨rfl, packWord_zero_of_opndField ho hopnd⟩
  · cases (decode_of_gen_opc ho).symm.trans h
    refine ⟨(wellFormed_gen_iff _).mpr (lengthField_range w), ?_⟩
    rw [encode, lengthOpnd, lengthField, BitVec.ofInt_toInt, ← ho, packWord_fields]
  · obtain ⟨hreserved, rfl⟩ := decodeByte_eq_command_iff.mp (decode_of_xorb_opc ho ▸ h)
    exact ⟨rfl, packWord_byteOpnd_dataField ho hreserved⟩
  · obtain ⟨hopnd, rfl⟩ := decodeNone_eq_command_iff.mp (decode_of_stat_opc ho ▸ h)
    exact ⟨rfl, packWord_zero_of_opndField ho hopnd⟩
  · cases (decode_of_undefined_opc ho).symm.trans h

/-- A sample word is legal once it is written as a well-formed command's word. -/
theorem decode_of_encode_eq {i : Instr} {w : CmdWord} (hwf : i.wellFormed = true) (hw : encode i = w) :
    decode w = .command i := hw ▸ decodeOfEncodeGivesTheCommand i hwf

/-- Settles O6: the legal words are the words of their commands, the illegal ones fall to their OPC's branch. -/
theorem sampleWordsDecode : Obligations.SampleWordsDecode := by
  have hopc : opcField 0x01000100#32 = 0x01#8 := by decide
  have hreserved : reservedField 0x01000100#32 ≠ 0#16 := by decide
  refine ⟨decode_of_encode_eq rfl ?_, decode_of_encode_eq rfl ?_, decode_of_encode_eq rfl ?_,
    decode_of_encode_eq rfl ?_, decode_of_encode_eq rfl ?_, decode_of_encode_eq rfl ?_, decode_of_encode_eq rfl ?_,
    decode_of_encode_eq rfl ?_, decode_of_undefined_opc (.inl ?_), ?_⟩
  case refine_10 => rw [decode_of_keyb_opc hopc, decodeByte, if_neg hreserved]
  all_goals decide

end Sys2Proof.Machine
end

section
/-! SUPPORT. The statements about the integer representation of the registers (spec/40_core_functions.md R106 to R109,
spec/10_state.md R26): the integer of a register is read and shifted as the register is. -/

namespace Sys2Proof.Machine

/-! ## TwinStep -/

/-- bit(r, k) is a Boolean as a number (R107). -/
theorem twinBit_eq_toNat (r k : Nat) : twinBit r k = (r.testBit k).toNat := by
  rw [twinBit, Nat.and_one_is_mod, Nat.shiftRight_eq_div_pow, Nat.toNat_testBit]

theorem xor_toNat (a b : Bool) : a.toNat ^^^ b.toNat = (a ^^ b).toNat := by
  cases a <;> cases b <;> rfl

theorem and_toNat (a b : Bool) : a.toNat &&& b.toNat = (a && b).toNat := by
  cases a <;> cases b <;> rfl

/-- A register's shift on integers, in the grouping of C4: the bits above the mask are dropped, the new bit comes in at
index 0. -/
theorem twinShift_eq_mod {w : Nat} (hw : 0 < w) (r : Nat) (b : Bool) :
    ((r <<< 1) &&& (2 ^ w - 1)) ||| b.toNat = (r <<< 1 + b.toNat) % 2 ^ w := by
  have hb : b.toNat < 2 ^ w := b.toNat_lt.trans_le (Nat.pow_le_pow_right Nat.two_pos hw)
  rw [Nat.shiftLeft_add_eq_or_of_lt b.toNat_lt, ← Nat.and_two_pow_sub_one_eq_mod, Nat.and_or_distrib_right,
    Nat.and_two_pow_sub_one_eq_mod b.toNat, Nat.mod_eq_of_lt hb]

/-- A shift ends within the mask, whatever integer it starts from (R26). -/
theorem twinShift_le {w : Nat} (hw : 0 < w) (r : Nat) (b : Bool) :
    ((r <<< 1) &&& (2 ^ w - 1)) ||| b.toNat ≤ 2 ^ w - 1 := by
  rw [twinShift_eq_mod hw]
  exact Nat.le_sub_one_of_lt (Nat.mod_lt _ (Nat.two_pow_pos w))

theorem maskA_eq : Config.maskA = 2 ^ 93 - 1 := rfl
theorem maskB_eq : Config.maskB = 2 ^ 84 - 1 := rfl
theorem maskC_eq : Config.maskC = 2 ^ 111 - 1 := rfl

/-- A register's integer, shifted as TwinStep shifts it, is the integer of the shifted register. -/
theorem twinShift_toNat {w : Nat} (hw : 0 < w) (x : BitVec w) (b : Bool) :
    ((x.toNat <<< 1) &&& (2 ^ w - 1)) ||| b.toNat = (x.shiftConcat b).toNat := by
  rw [twinShift_eq_mod hw, BitVec.toNat_shiftConcat]

/-- Settles O17: the taps are the same bits, the feedbacks the same Booleans, and each shift is the register's. -/
theorem twinStepIsStep : Obligations.TwinStepIsStep := by
  intro s
  simp only [twinStep, Cipher.int, Cipher.step, twinBit_eq_toNat, BitVec.testBit_toNat, xor_toNat, and_toNat, maskA_eq,
    maskB_eq, maskC_eq, BitVec.getLsbD_eq_getElem, Nat.reduceLT]
  rw [twinShift_toNat (by decide), twinShift_toNat (by decide), twinShift_toNat (by decide)]

/-- Settles O19: each register is one such shift, and the output is a Boolean. -/
theorem twinStaysWithinTheMasks : Obligations.TwinStaysWithinTheMasks := by
  refine ⟨maskA_eq, maskB_eq, maskC_eq, fun t => ?_⟩
  simp only [twinStep, twinBit_eq_toNat, xor_toNat, and_toNat, maskA_eq, maskB_eq, maskC_eq]
  exact ⟨twinShift_le (by decide) .., twinShift_le (by decide) .., twinShift_le (by decide) .., Bool.toNat_le _⟩

/-! ## TwinInit -/

/-- Bit i of the little-endian integer of a byte sequence is Bit of the sequence (R41, R101). -/
theorem littleEndian_testBit (buf : List Byte) (i : Nat) : (littleEndian buf).testBit i = bitOf buf i := by
  induction buf generalizing i with
  | nil => simp [littleEndian, bitOf]
  | cons x rest ih =>
    rw [littleEndian, Nat.add_comm, Nat.testBit_two_pow_mul_add _ x.isLt, ih, bitOf_eq_div_mod, bitOf_eq_div_mod]
    by_cases hi : i < 8
    · simp [hi, Nat.div_eq_of_lt hi, Nat.mod_eq_of_lt hi, BitVec.getElem_eq_testBit_toNat]
    · obtain ⟨j, rfl⟩ : ∃ j, i = 8 + j := ⟨i - 8, by omega⟩
      simp [Nat.add_comm 8]

/-- Beyond the buffer Bit is 0 (R101). -/
theorem bitOf_of_length_le {buf : List Byte} {i : Nat} (h : 8 * buf.length ≤ i) : bitOf buf i = false := by
  rw [bitOf_eq_div_mod, if_neg (by omega)]

/-- A register filled from a ten-byte buffer holds its little-endian integer (R41, R102). -/
theorem littleEndian_eq_toNat_ofBits (buf : TenBytes) {w : Nat} (hw : 80 ≤ w) :
    littleEndian buf.toList = (ofBits w fun k => if k < 80 then bitOf buf.toList k else false).toNat := by
  apply Nat.eq_of_testBit_eq
  intro i
  rw [littleEndian_testBit, BitVec.testBit_toNat, ofBits_getLsbD]
  by_cases hi : i < 80
  · simp [hi, hi.trans_le hw]
  · have hlen : 8 * buf.toList.length ≤ i := by rw [Vector.length_toList]; omega
    simp [hi, bitOf_of_length_le hlen]

/-- Settles O18: A and B are filled from the buffers, C is the constant 7 · 2^108. -/
theorem twinInitIsInit : Obligations.TwinInitIsInit := by
  intro key iv
  have hc : 7 * 2 ^ 108 = (cipherInit key iv).c.toNat := by rw [cipherInit_c]; rfl
  rw [twinInit, Cipher.int, ← hc, littleEndian_eq_toNat_ofBits key (w := 93) (by decide),
    littleEndian_eq_toNat_ofBits iv (w := 84) (by decide)]
  rfl

end Sys2Proof.Machine
end

section
/-! SUPPORT. The laws of the functional level (spec/40_core_functions.md R115 to R118) and NextByte after p bytes
(spec/42_keystream_commands.md R160). -/

namespace Sys2Proof.Machine

/-- Settles O21: NextByte is KSByte(0) of the registers it meets, which stand 8·p steps on. -/
theorem nextByteReturnsTheNextKeystreamByte : Obligations.NextByteReturnsTheNextKeystreamByte := by
  intro s p
  rw [Cipher.nextByte_eq, Cipher.ksByte_steps, Nat.add_zero, ← Cipher.steps_add, Nat.mul_succ]

/-- A byte of XorTransform (R114). -/
theorem xorTransform_getElem {key iv data : List Byte} {i : Nat} (h : i < (xorTransform key iv data).length)
    (hi : i < data.length) : (xorTransform key iv data)[i] = data[i] ^^^ (keystreamStart key iv).ksByte i :=
  Option.some.inj ((List.getElem?_eq_getElem h).symm.trans ((xorTransformXorsBytewise key iv data).2 i hi))

theorem xorTransform_length (key iv data : List Byte) : (xorTransform key iv data).length = data.length :=
  (xorTransformXorsBytewise key iv data).1

/-- Settles O24: both applications XOR with one keystream byte at each index, and the bytes cancel. -/
theorem xorTransformIsAnInvolution : Obligations.XorTransformIsAnInvolution := by
  intro key iv data
  apply List.ext_getElem
  · rw [xorTransform_length, xorTransform_length]
  · intro i _ hi
    have hi' : i < (xorTransform key iv data).length := (xorTransform_length key iv data).symm ▸ hi
    rw [xorTransform_getElem _ hi', xorTransform_getElem hi' hi, BitVec.xor_assoc, BitVec.xor_self, BitVec.xor_zero]

/-- Settles O25: the keystream bytes are listed in order, so fewer of them are the first ones. -/
theorem shorterKeystreamIsAPrefix : Obligations.ShorterKeystreamIsAPrefix := by
  intro key iv n m long hle h
  rw [keystream_of_nonneg (Int.natCast_nonneg m), KeystreamResult.bytes.injEq] at h
  rw [keystream_of_nonneg (Int.natCast_nonneg n), ← h, Int.toNat_natCast, Int.toNat_natCast, Cipher.draw_bytes,
    Cipher.draw_bytes, ← List.map_take, List.take_range, Nat.min_eq_left hle]

/-! ## Normal forms -/

/-- Two sequences that read alike below index 10, with zeros beyond their ends, have one normal form (R100). -/
theorem normalizeBuf_congr {buf buf' : List Byte} (h : ∀ i < 10, buf.getD i 0#8 = buf'.getD i 0#8) :
    normalizeBuf buf = normalizeBuf buf' := by
  unfold normalizeBuf
  congr 1
  funext i
  exact h i.val i.isLt

theorem normalizeBuf_take (buf : List Byte) : normalizeBuf (buf.take 10) = normalizeBuf buf := by
  refine normalizeBuf_congr fun i hi => ?_
  simp only [List.getD_eq_getElem?_getD, List.getElem?_take_of_lt hi]

theorem normalizeBuf_append_zeros (buf : List Byte) (j : Nat) :
    normalizeBuf (buf ++ List.replicate j 0#8) = normalizeBuf buf := by
  refine normalizeBuf_congr fun i _ => ?_
  obtain hi | hi := Nat.lt_or_ge i buf.length
  · rw [List.getD_append _ _ _ _ hi]
  · rw [List.getD_append_right _ _ _ _ hi, List.getD_eq_default buf 0#8 hi, List.getD_eq_getElem?_getD,
      List.getElem?_getD_replicate_default_eq]

/-- The keystream sees key and IV through Normalize only (R111). -/
theorem keystream_congr {key key' iv iv' : List Byte} (hkey : normalizeBuf key = normalizeBuf key')
    (hiv : normalizeBuf iv = normalizeBuf iv') (n : Int) : keystream key iv n = keystream key' iv' n := by
  rw [keystream, keystream, keystreamStart, keystreamStart, hkey, hiv]

/-- Settles O26: neither a cut at ten bytes nor zeros at the end change a normal form. -/
theorem keystreamDependsOnNormalFormsOnly : Obligations.KeystreamDependsOnNormalFormsOnly :=
  fun key iv n => ⟨keystream_congr (normalizeBuf_take key) (normalizeBuf_take iv) n,
    fun j k => keystream_congr (normalizeBuf_append_zeros key j) (normalizeBuf_append_zeros iv k) n⟩

end Sys2Proof.Machine
end

section
/-! SUPPORT. The statements about single commands and steps: which turn a step runs (spec/20_memory.md R52), who writes
PHASE (spec/70_reset_and_hazards.md R231), the write columns of the access table (spec/10_state.md R33), and the
commands that commute with a warm-up step or forget the old session (R52, R142). -/

namespace Sys2Proof.Machine

/-! ## Which turn a step runs -/

section
variable {s : State} (hschedule : s.schedule = [])
include hschedule

/-- Outside WARMUP the command port has the turn, where none is fixed (R52). -/
theorem step_of_not_warmup (hp : s.phase ≠ .warmup) : step s = commandTurn s := by
  simp [step, advance, hschedule, hp, runTurn]

/-- In WARMUP the warm-up engine moves if the head command cannot (R52). -/
theorem step_of_stuck_in_warmup (hp : s.phase = .warmup) (h : s.headCanMove = false) : step s = warmupTurn s := by
  simp [step, advance, hschedule, hp, h, runTurn]

/-- In WARMUP the free value decides between a warm-up step and a head command that can move (R52). -/
theorem step_of_movable_in_warmup (hp : s.phase = .warmup) (h : s.headCanMove = true) : step s =
    if Config.warmupFirst s.tick then warmupTurn { s with tick := s.tick + 1 }
    else commandTurn { s with tick := s.tick + 1 } := by
  simp only [step, advance, hschedule, hp, h, if_true]
  cases Config.warmupFirst s.tick <;> rfl

end

/-- A head command can move exactly when it is not held. -/
theorem headCanMove_of_head {s : State} {w : CmdWord} {cs : List CmdWord} (hcs : s.commands = w :: cs) :
    s.headCanMove = !s.holds w := by
  simp [State.headCanMove, hcs]

/-- The host's view of the decoder is the decoder. -/
theorem decode_of_decodeTableWord {nbits w : Nat} {i : Instr} (h : decodeTableWord nbits w = some i) :
    decode (tableWord nbits w) = .command i := by
  unfold decodeTableWord at h
  split at h
  · rename_i j hj
    rw [hj, Option.some.inj h]
  · cases h

/-- Settles O7: the turn of the command port is exec of the decoded head, and the default gives it that turn outside
WARMUP, or by the free value. -/
theorem stepRunsTheDecodedCommand : Obligations.StepRunsTheDecodedCommand := by
  refine ⟨fun s w cs i hcs hd => ⟨?fixed, fun hsch hp => ?outside, fun hsch hp hh => ?held, fun hsch hp hh => ?free⟩,
    fun s nbits w i hd => ?placed⟩
  case fixed => exact commandTurn_of_command hcs hd
  case outside => exact (step_of_not_warmup hsch hp).trans (commandTurn_of_command hcs hd)
  case held => exact step_of_held_in_warmup hsch hp hcs hh
  case free =>
    have hmove : s.headCanMove = true := by rw [headCanMove_of_head hcs, hh, Bool.not_false]
    rw [step_of_movable_in_warmup hsch hp hmove,
      commandTurn_of_command (s := { s with tick := s.tick + 1 }) hcs hd]
    rfl
  case placed =>
    exact commandTurn_of_command (s := s.withHead (tableWord nbits w)) rfl (decode_of_decodeTableWord hd)

/-- Settles O11, by the writers of PHASE; the warm-up engine writes it only on the step to 1152. -/
theorem onlyInitWarmupAndResetWritePhase : Obligations.OnlyInitWarmupAndResetWritePhase := by
  intro s t h hne
  obtain ⟨hp, -⟩ | ⟨hinit, hp, -⟩ | ⟨hs, hp, hw⟩ | ⟨hreset, hp, -⟩ := step_phase_wcnt h
  · exact absurd hp hne
  · exact .inl ⟨hp, hinit⟩
  · split at hp
    case isTrue hlast => exact .inr (.inl ⟨hp, hs, hw.trans hlast⟩)
    case isFalse => exact absurd (hp.trans hs.symm) hne
  · exact .inr (.inr ⟨hp, hreset⟩)

/-! ## What each command leaves unchanged -/

/-- No command writes the environment but its own word and response (R33, R38). -/
theorem exec_environment {i : Instr} {s t : State} (h : exec i s = .next t) :
    t.taken = s.taken ∧ t.respCap = s.respCap ∧ t.schedule = s.schedule ∧ t.tick = s.tick := by
  obtain ⟨-, rfl | ⟨-, hc⟩⟩ := exec_cases h
  · exact ⟨rfl, rfl, rfl, rfl⟩
  · obtain ⟨_, -, rfl⟩ | ⟨_, -, rfl⟩ | ⟨-, rfl⟩ | ⟨_, -, -, rfl⟩ | ⟨_, -, -, -, rfl⟩ | ⟨_, -, -, -, rfl⟩ |
      ⟨_, -, -, rfl⟩ | ⟨_, -, -, rfl⟩ | ⟨-, rfl⟩ := hc
    all_goals exact ⟨rfl, rfl, rfl, rfl⟩

/-- The columns A, B, C and the staging columns of the access table (R33). -/
theorem exec_registers_staging {i : Instr} {s t : State} (h : exec i s = .next t) :
    ((∃ data, i = .keyb data) ∨ (∃ data, i = .ivb data) ∨ i = .stat → t.cipher = s.cipher) ∧
    (i ≠ .init → (∀ data, i ≠ .keyb data) → t.keybuf = s.keybuf ∧ t.keycnt = s.keycnt) ∧
    (i ≠ .init → (∀ data, i ≠ .ivb data) → t.ivbuf = s.ivbuf ∧ t.ivcnt = s.ivcnt) := by
  obtain ⟨-, rfl | ⟨-, hc⟩⟩ := exec_cases h
  · exact ⟨fun _ => rfl, fun _ _ => ⟨rfl, rfl⟩, fun _ _ => ⟨rfl, rfl⟩⟩
  · obtain ⟨_, rfl, rfl⟩ | ⟨_, rfl, rfl⟩ | ⟨rfl, rfl⟩ | ⟨_, rfl, -, rfl⟩ | ⟨_, rfl, -, -, rfl⟩ |
      ⟨_, rfl, -, -, rfl⟩ | ⟨_, rfl, -, rfl⟩ | ⟨_, rfl, -, rfl⟩ | ⟨rfl, rfl⟩ := hc
    all_goals simp

/-- Staging never counts past 10 (R29, R30). -/
theorem stageCnt_le {cnt : BitVec 4} (h : cnt.toNat ≤ 10) : (stageCnt cnt).toNat ≤ 10 :=
  (stageCnt_toNat cnt h).trans_le (Nat.min_le_left ..)

@[simp] theorem respond_violation (code : Code) (payload : List Byte) (s : State) :
    (respond code payload s).violation = s.violation := rfl

/-- A command leads to a state the spec allows (R214). -/
theorem exec_violation {i : Instr} {s t : State} (h : exec i s = .next t) : t.violation = none := by
  obtain ⟨hs, rfl | ⟨-, hc⟩⟩ := exec_cases h
  · exact hs
  · obtain ⟨hp, hwcnt, hkeycnt, hivcnt⟩ := (violation_eq_none_iff s).mp hs
    obtain ⟨_, -, rfl⟩ | ⟨_, -, rfl⟩ | ⟨-, rfl⟩ | ⟨_, -, -, rfl⟩ | ⟨_, -, -, -, rfl⟩ | ⟨_, -, -, -, rfl⟩ |
      ⟨_, -, -, rfl⟩ | ⟨_, -, -, rfl⟩ | ⟨-, rfl⟩ := hc
    · exact (violation_eq_none_iff _).mpr ⟨hp, hwcnt, stageCnt_le hkeycnt, hivcnt⟩
    · exact (violation_eq_none_iff _).mpr ⟨hp, hwcnt, hkeycnt, stageCnt_le hivcnt⟩
    · exact loadSession_violation s
    all_goals exact hs

/-- Settles O34, column by column. -/
theorem commandsWriteOnlyTheirFields : Obligations.CommandsWriteOnlyTheirFields := by
  intro i s t h
  obtain ⟨hcipher, hkey, hiv⟩ := exec_registers_staging h
  exact ⟨hcipher, fun hi => exec_phase_wcnt_of_ne_init hi h, hkey, hiv, exec_environment h⟩

/-! ## Pairs of commands -/

/-- The keystream is split where a draw ends: the bytes after the first `a` are those of the registers 8·a steps on
(R57, R163). -/
theorem Cipher.ksBytes_add (s : Cipher) (a b : Nat) : (List.range (a + b)).map s.ksByte =
    (List.range a).map s.ksByte ++ (List.range b).map (s.steps (8 * a)).ksByte := by
  rw [List.range_add, List.map_append, List.map_map]
  simp [Cipher.ksByte_steps]

/-- Settles O39: the second GEN starts 8·a steps on, where the bytes of the long one are split. -/
theorem splitGenerationEqualsOne : Obligations.SplitGenerationEqualsOne := by
  intro s a b hs hcap hp
  have hacc : s.accepting := ⟨hs, channelFull_of_unbounded hcap⟩
  refine ⟨_, _, _, _, _, exec_gen_of_ready hacc hp (Int.natCast_nonneg a),
    exec_gen_of_ready (respond_withCipher_accepting hs hcap ..) hp (Int.natCast_nonneg b),
    exec_gen_of_ready hacc hp (Int.natCast_nonneg (a + b)), rfl, rfl, ?bytes, ?length, ?registers⟩
  case bytes =>
    rw [Int.toNat_natCast, Int.toNat_natCast, Int.toNat_natCast, Cipher.ksBytes_add]
    rfl
  case length => simp
  case registers => simp only [respond_cipher, Int.toNat_natCast, Nat.mul_add, Cipher.steps_add]

/-- A warm-up step below 1152 leads to a state the spec allows (R28, R143). -/
theorem wstep_violation {s : State} (hs : s.violation = none) (hp : s.phase = .warmup) (hle : s.wcnt.toNat ≤ 1151) :
    (wstep s).violation = none := by
  have hone := wstep_warmed (s := s) (k := 0) (by omega)
  rw [warmed_zero hp hle] at hone
  exact hone ▸ warmed_violation hs (by omega)

/-- Settles O40: staging writes the buffers and counts, a warm-up step the registers, WCNT and PHASE. -/
theorem stagingCommutesWithWarmup : Obligations.StagingCommutesWithWarmup := by
  intro s data i hi hs hp hle
  have hv : (wstep s).accepting := ⟨wstep_violation hs.1 hp hle, hs.2⟩
  have hwarm := warmupTurn_of_warmup hs.1 hp
  obtain rfl | rfl := hi
  · have hexec := exec_keyb_of_accepting hs data
    exact ⟨_, _, wstep s, hexec, (step_giveTurn ..).trans (warmupTurn_of_warmup (exec_violation hexec) hp), hwarm,
      exec_keyb_of_accepting hv data⟩
  · have hexec := exec_ivb_of_accepting hs data
    exact ⟨_, _, wstep s, hexec, (step_giveTurn ..).trans (warmupTurn_of_warmup (exec_violation hexec) hp), hwarm,
      exec_ivb_of_accepting hv data⟩

/-- Settles O41: `loadSession` overwrites every field in which the two states differ. -/
theorem initForgetsTheOldSession : Obligations.InitForgetsTheOldSession :=
  fun _ _ _ _ hs hs' => ⟨_, exec_init_of_accepting hs, exec_init_of_accepting hs'⟩

end Sys2Proof.Machine
end

section
/-! SUPPORT. The statements about model faults (spec/60_exceptions.md R214) and the invariant of every reachable state
(spec/10_state.md R29 to R31): a step faults exactly where the spec allows no state, and from the invariant it reaches
the invariant. -/

namespace Sys2Proof.Machine

/-! ## Where a step faults -/

/-- The states R214 leaves out. -/
theorem violation_ne_none_iff (s : State) : s.violation ≠ none ↔
    s.phase = .reserved ∨ 1152 < s.wcnt.toNat ∨ 10 < s.keycnt.toNat ∨ 10 < s.ivcnt.toNat := by
  simp [violation_eq_none_iff, not_and_or, -not_and]

/-- An operation that faults under a violation, and answers a next state without one, faults exactly in the states of
R214. -/
theorem fault_iff_of_violation {s : State} {r : Result} (hfault : ∀ f, s.violation = some f → r = .fault f)
    (hnext : s.violation = none → ∃ t, r = .next t) : (∃ f, r = .fault f) ↔
    (s.phase = .reserved ∨ 1152 < s.wcnt.toNat ∨ 10 < s.keycnt.toNat ∨ 10 < s.ivcnt.toNat) := by
  rw [← violation_ne_none_iff]
  cases hv : s.violation with
  | none =>
    obtain ⟨t, ht⟩ := hnext hv
    simp [ht]
  | some f => simp [hfault f hv]

theorem perform_of_violation {s : State} {f : Fault} (h : s.violation = some f) (k : State → Result) :
    perform s k = .fault f := guarded_of_some h _

theorem exec_of_violation {s : State} {f : Fault} (h : s.violation = some f) (i : Instr) : exec i s = .fault f := by
  obtain ⟨k, hk⟩ := exec_eq_perform i s
  exact hk.trans (perform_of_violation h k)

/-- Every turn faults under a violation, before it does anything (R214). -/
theorem runTurn_of_violation {s : State} {f : Fault} (h : s.violation = some f) (turn : Turn) :
    runTurn turn s = .fault f := by
  cases turn with
  | command =>
    rw [runTurn, commandTurn]
    split
    · exact guarded_of_some h _
    · split
      · exact exec_of_violation h _
      · exact perform_of_violation h _
  | warmup => rw [runTurn, warmupTurn, guarded_of_some h]
  | take => rw [runTurn, guarded_of_some h]
  | reset => rw [runTurn, guarded_of_some h]

/-- The phase checks answer in every phase the spec allows (R161, R162). -/
theorem whenReady_total {s : State} {k : State → Result} (hp : s.phase ≠ .reserved) (hk : ∃ t, k s = .next t) :
    ∃ t, whenReady s k = .next t := by
  cases hphase : s.phase with
  | idle => exact ⟨_, whenReady_of_idle hphase k⟩
  | warmup => exact ⟨_, whenReady_of_warmup hphase k⟩
  | ready => exact hk.imp fun _ ht => (whenReady_of_ready hphase k).trans ht
  | reserved => exact absurd hphase hp

/-- A command answers a next state wherever the spec allows the state. -/
theorem exec_total {s : State} (h : s.violation = none) (i : Instr) : ∃ t, exec i s = .next t := by
  obtain ⟨hp, -⟩ := (violation_eq_none_iff s).mp h
  cases hfull : s.channelFull with
  | true =>
    obtain ⟨k, hk⟩ := exec_eq_perform i s
    exact ⟨s, hk.trans (perform_of_full h hfull k)⟩
  | false =>
    have hs : s.accepting := ⟨h, hfull⟩
    cases i with
    | keyb data => exact ⟨_, exec_keyb_of_accepting hs data⟩
    | ivb data => exact ⟨_, exec_ivb_of_accepting hs data⟩
    | init => exact ⟨_, exec_init_of_accepting hs⟩
    | gen n =>
      obtain hn | hn := Int.lt_or_le n 0
      · exact ⟨_, exec_gen_neg_of_accepting hs hn⟩
      · rw [exec_gen_of_accepting hs hn]
        exact whenReady_total hp ⟨_, rfl⟩
    | xorb data =>
      rw [exec_xorb_of_accepting hs data]
      exact whenReady_total hp ⟨_, rfl⟩
    | stat => exact ⟨_, exec_stat_of_accepting hs⟩

/-- Every turn answers a next state wherever the spec allows the state. -/
theorem runTurn_total {s : State} (h : s.violation = none) (turn : Turn) : ∃ t, runTurn turn s = .next t := by
  cases turn with
  | command =>
    rw [runTurn, commandTurn]
    split
    · exact ⟨s, guarded_of_none h _⟩
    · split
      · exact exec_total h _
      · cases hfull : s.channelFull with
        | true => exact ⟨s, perform_of_full h hfull _⟩
        | false => exact ⟨_, execIllegal_of_accepting ⟨h, hfull⟩⟩
  | warmup =>
    by_cases hp : s.phase = .warmup
    · exact ⟨_, warmupTurn_of_warmup h hp⟩
    · exact ⟨_, warmupTurn_of_not_warmup h hp⟩
  | take => exact ⟨takeResponse s, by rw [runTurn, guarded_of_none h]⟩
  | reset => exact ⟨_, runTurn_reset_of_allowed h⟩

/-- A step is a turn on a state with the same violation: neither the schedule nor the tick decides it (R214). -/
theorem step_eq_runTurn_violation (s : State) : ∃ turn u, step s = runTurn turn u ∧ u.violation = s.violation := by
  obtain ⟨turn, u, hstep, hu, -⟩ := step_eq_runTurn_upto_schedule s
  exact ⟨turn, u, hstep, by rw [hu]; rfl⟩

theorem step_of_violation {s : State} {f : Fault} (h : s.violation = some f) : step s = .fault f := by
  obtain ⟨turn, u, hstep, hu⟩ := step_eq_runTurn_violation s
  exact hstep.trans (runTurn_of_violation (hu.trans h) turn)

/-- A step answers a next state wherever the spec allows the state. -/
theorem step_total {s : State} (h : s.violation = none) : ∃ t, step s = .next t := by
  obtain ⟨turn, u, hstep, hu⟩ := step_eq_runTurn_violation s
  rw [hstep]
  exact runTurn_total (hu.trans h) turn

/-- Settles O44: under a violation everything faults, without one everything answers a next state; a register's width
is its mask. -/
theorem faultsExactlyInImpossibleStates : Obligations.FaultsExactlyInImpossibleStates := by
  refine ⟨fun i s => fault_iff_of_violation (fun f hf => exec_of_violation hf i) fun h => exec_total h i,
    fun s => fault_iff_of_violation (fun f hf => step_of_violation hf) step_total, rfl, fun s => ?masks,
    fun s w why hd hs => ?illegal⟩
  case masks =>
    exact ⟨Nat.le_sub_one_of_lt s.cipher.a.isLt, Nat.le_sub_one_of_lt s.cipher.b.isLt,
      Nat.le_sub_one_of_lt s.cipher.c.isLt⟩
  case illegal =>
    exact ⟨_, (commandTurn_of_illegal (s.withHead_commands w) hd).trans
      (execIllegal_of_accepting (withHead_accepting hs w))⟩

/-- Settles O47: the invariant leaves out the states of R214. -/
theorem noFaultOrRefusalUnderTheInvariant : Obligations.NoFaultOrRefusalUnderTheInvariant :=
  fun _ hinv => step_total hinv.violation_eq_none

/-! ## The invariant -/

theorem stagingInv_zero : StagingInv TenBytes.zero 0#4 :=
  ⟨by decide, fun i _ => by simp [TenBytes.zero]⟩

/-- Staging a byte keeps the bytes from the count on zero: the one it writes is below the new count (R29, R30). -/
theorem stagingInv_stage {buf : TenBytes} {cnt : BitVec 4} (h : StagingInv buf cnt) (data : Byte) :
    StagingInv (stageBuf data buf cnt) (stageCnt cnt) := by
  obtain ⟨hcnt, hzero⟩ := h
  refine ⟨stageCnt_le hcnt, fun i hi => ?_⟩
  rw [stageCnt_toNat cnt hcnt] at hi
  have hne : i.val ≠ cnt.toNat := by omega
  calc (stageBuf data buf cnt)[i]
      = if i.val = cnt.toNat then data else buf[i] := stageBuf_getElem data buf cnt i.val i.isLt
    _ = buf[i] := if_neg hne
    _ = 0#8 := hzero i (by omega)

/-- A bounded channel that is not full has room for one more response (D23). -/
theorem channelFull_eq_false_iff {s : State} {cap : Nat} (hcap : s.respCap = some cap) :
    s.channelFull = false ↔ s.pending < cap := by
  simp [State.channelFull, hcap]

section
variable {s : State} (h : s.Inv)
include h

/-- One more response keeps the invariant, if the channel has room for it. -/
theorem State.Inv.respond (hroom : s.channelFull = false) (code : Code) (payload : List Byte) :
    (respond code payload s).Inv := by
  obtain ⟨hphase, hkey, hiv, htaken, -⟩ := h
  refine ⟨hphase, hkey, hiv, ?_, fun cap hcap => ?_⟩
  · simpa using Nat.le_succ_of_le htaken
  · have hlt := (channelFull_eq_false_iff (s := s) hcap).mp hroom
    simp only [State.pending, respond_responses, respond_taken, List.length_append, List.length_singleton] at hlt ⊢
    omega

/-- INIT leaves WARMUP with WCNT 0 and empty staging buffers (R142). -/
theorem State.Inv.loadSession : (loadSession s).Inv := by
  obtain ⟨-, -, -, hchannel⟩ := h
  exact ⟨Nat.zero_le 1151, stagingInv_zero, stagingInv_zero, hchannel⟩

/-- A reset leaves IDLE with zero registers (R230). -/
theorem State.Inv.resetBlock : (resetBlock s).Inv := by
  obtain ⟨-, -, -, hchannel⟩ := h
  exact ⟨⟨rfl, rfl⟩, stagingInv_zero, stagingInv_zero, hchannel⟩

/-- In READY the registers are free (R31). -/
theorem State.Inv.withCipher (hp : s.phase = .ready) (c : Cipher) : State.Inv { s with cipher := c } := by
  obtain ⟨-, hstaging⟩ := id h
  refine ⟨?_, hstaging⟩
  simpa [State.PhaseInv, hp] using h.wcnt_of_ready hp

/-- A warm-up step counts within 1151 or ends the warm-up at 1152 (R143, R144). -/
theorem State.Inv.wstep (hp : s.phase = .warmup) : (wstep s).Inv := by
  have hle := h.wcnt_le_of_warmup hp
  obtain ⟨-, hstaging⟩ := h
  refine ⟨?_, hstaging⟩
  by_cases hlast : s.wcnt + 1#11 = 1152#11
  · simp [State.PhaseInv, hlast]
  · have hne : s.wcnt.toNat + 1 ≠ 1152 := fun he => hlast (BitVec.eq_of_toNat_eq (by rw [wcnt_succ_toNat hle, he]; rfl))
    simp only [State.PhaseInv, wstep_phase, if_neg hlast, hp, wstep_wcnt, wcnt_succ_toNat hle]
    omega

/-- Consuming a response, if there is one, leaves the channel within its capacity (D23). -/
theorem State.Inv.takeResponse : (takeResponse s).Inv := by
  unfold Machine.takeResponse
  split
  case isFalse => exact h
  case isTrue hlt =>
    obtain ⟨hphase, hkey, hiv, -, hpending⟩ := h
    refine ⟨hphase, hkey, hiv, hlt, fun cap hcap => ?_⟩
    exact (Nat.sub_le_sub_left (Nat.le_succ s.taken) s.responses.length).trans (hpending cap hcap)

/-- A staged key byte keeps the invariant (R140). -/
theorem State.Inv.stageKey (data : Byte) :
    State.Inv { s with keybuf := stageBuf data s.keybuf s.keycnt, keycnt := stageCnt s.keycnt } := by
  obtain ⟨hphase, hkey, hiv, hchannel⟩ := h
  exact ⟨hphase, stagingInv_stage hkey data, hiv, hchannel⟩

/-- A staged IV byte keeps the invariant (R141). -/
theorem State.Inv.stageIv (data : Byte) :
    State.Inv { s with ivbuf := stageBuf data s.ivbuf s.ivcnt, ivcnt := stageCnt s.ivcnt } := by
  obtain ⟨hphase, hkey, hiv, hchannel⟩ := h
  exact ⟨hphase, hkey, stagingInv_stage hiv data, hchannel⟩

/-- A command keeps the invariant: what it writes before its response does, and it is performed only with room for that
(R140 to R180). -/
theorem State.Inv.exec {i : Instr} {t : State} (hexec : exec i s = .next t) : t.Inv := by
  obtain ⟨-, rfl | ⟨hroom, hc⟩⟩ := exec_cases hexec
  · exact h
  · obtain ⟨data, -, rfl⟩ | ⟨data, -, rfl⟩ | ⟨-, rfl⟩ | ⟨_, -, -, rfl⟩ | ⟨_, -, -, -, rfl⟩ | ⟨n, -, -, hp, rfl⟩ |
      ⟨_, -, -, rfl⟩ | ⟨_, -, hp, rfl⟩ | ⟨-, rfl⟩ := hc
    · have hu := h.stageKey data
      exact hu.respond hroom ..
    · have hu := h.stageIv data
      exact hu.respond hroom ..
    · exact h.loadSession.respond hroom ..
    · exact h.respond hroom ..
    · exact h.respond hroom ..
    · have hu := h.withCipher hp (s.cipher.draw n.toNat).2
      exact hu.respond hroom ..
    · exact h.respond hroom ..
    · have hu := h.withCipher hp s.cipher.nextByte.2
      exact hu.respond hroom ..
    · exact h.respond hroom ..

/-- An Illegal word keeps the invariant (R65). -/
theorem State.Inv.execIllegal {t : State} (hexec : execIllegal s = .next t) : t.Inv := by
  obtain ⟨-, ⟨-, rfl⟩ | ⟨hroom, ht⟩⟩ := perform_eq_next hexec
  · exact h
  · exact Host.Outcome.next.inj ht ▸ h.respond hroom .illegalCommand []

/-- Every turn keeps the invariant. -/
theorem State.Inv.runTurn {turn : Turn} {t : State} (hrun : runTurn turn s = .next t) : t.Inv := by
  cases turn with
  | command =>
    obtain ⟨-, -, rfl⟩ | ⟨_, _, _, -, -, hexec⟩ | ⟨_, _, _, -, -, hexec⟩ := commandTurn_cases hrun
    · exact h
    · exact h.exec hexec
    · exact h.execIllegal hexec
  | warmup =>
    obtain ⟨-, ⟨hp, rfl⟩ | ⟨-, rfl⟩⟩ := warmupTurn_cases hrun
    · exact h.wstep hp
    · exact h
  | take =>
    obtain ⟨-, rfl⟩ := takeTurn_cases hrun
    exact h.takeResponse
  | reset =>
    obtain ⟨-, rfl⟩ := resetTurn_cases hrun
    exact h.resetBlock

end

/-- Settles O45: a step is one turn, and the invariant speaks of neither the schedule nor the tick. -/
theorem everyStepKeepsTheInvariant : Obligations.EveryStepKeepsTheInvariant := by
  intro s t h hstep
  obtain ⟨turn, u, hturn, hu, -⟩ := step_eq_runTurn_upto_schedule s
  have hinv : u.Inv := by rw [hu]; exact h
  exact hinv.runTurn (hturn ▸ hstep)

/-- Settles O46: the reset state is IDLE with zero registers, empty buffers and an empty unbounded channel. -/
theorem resetMeetsTheInvariant : Obligations.ResetMeetsTheInvariant :=
  ⟨⟨State.reset_wcnt, State.reset_cipher⟩, stagingInv_zero, stagingInv_zero, Nat.zero_le 0, nofun⟩

/-- Settles O50: a full channel of capacity at least 1 holds an unconsumed response, and with it consumed one fewer than
the capacity are left at most. -/
theorem consumingAResponseMakesRoom : Obligations.ConsumingAResponseMakesRoom := by
  intro s cap hinv hcap hpos hfull
  obtain ⟨-, -, -, -, hpending⟩ := id hinv
  have hle : s.responses.length - s.taken ≤ cap := hpending cap hcap
  have hge : cap ≤ s.responses.length - s.taken := by
    simp only [State.channelFull, hcap, decide_eq_true_eq] at hfull
    exact hfull
  have htake : takeResponse s = { s with taken := s.taken + 1 } := if_pos (by omega)
  constructor
  · rw [step_giveTurn, runTurn, guarded_of_none hinv.violation_eq_none, htake]
  · rw [channelFull_eq_false_iff (s := { s with taken := s.taken + 1 }) hcap, State.pending]
    show s.responses.length - (s.taken + 1) < cap
    omega

end Sys2Proof.Machine
end

section
/-! SUPPORT. The statements about progress and the end of a run (spec/44_host_operations.md R196, R197): what a step
keeps of the environment, what an unfinished run consumes or counts, and the measure that falls. -/

namespace Sys2Proof.Machine

/-! ## What a step keeps of the environment -/

/-- No turn writes the schedule or RespCap (R38). -/
theorem runTurn_schedule_respCap {turn : Turn} {s t : State} (h : runTurn turn s = .next t) :
    t.schedule = s.schedule ∧ t.respCap = s.respCap := by
  cases turn with
  | command =>
    obtain ⟨-, -, rfl⟩ | ⟨_, _, _, -, -, hexec⟩ | ⟨_, _, _, -, -, hexec⟩ := commandTurn_cases h
    · exact ⟨rfl, rfl⟩
    · obtain ⟨-, hcap, hschedule, -⟩ := exec_environment hexec
      exact ⟨hschedule, hcap⟩
    · obtain rfl | rfl := execIllegal_cases hexec <;> exact ⟨rfl, rfl⟩
  | warmup =>
    obtain ⟨-, ⟨-, rfl⟩ | ⟨-, rfl⟩⟩ := warmupTurn_cases h
    · exact ⟨wstep_schedule s, wstep_respCap s⟩
    · exact ⟨rfl, rfl⟩
  | take =>
    obtain ⟨-, rfl⟩ := takeTurn_cases h
    exact ⟨takeResponse_schedule s, takeResponse_respCap s⟩
  | reset =>
    obtain ⟨-, rfl⟩ := resetTurn_cases h
    exact ⟨resetBlock_schedule s, resetBlock_respCap s⟩

/-- A step uses up the first turn of the schedule, if there is one (R52). -/
theorem step_schedule_respCap {s t : State} (h : step s = .next t) :
    t.schedule = s.schedule.tail ∧ t.respCap = s.respCap := by
  obtain ⟨turn, u, hstep, hu⟩ := step_eq_runTurn s
  obtain ⟨hschedule, hcap⟩ := runTurn_schedule_respCap (hstep ▸ h)
  rw [hschedule, hcap]
  obtain ⟨hs, hu⟩ | ⟨hs, -, rfl | rfl⟩ := hu
  · exact ⟨by rw [hs, List.tail_cons], by rw [hu]⟩
  · exact ⟨by rw [hs, List.tail_nil], rfl⟩
  · exact ⟨by rw [hs, List.tail_nil], rfl⟩

/-- A step leaves the number of responses delivered and due as it was (R51). -/
theorem step_responses_length {s t : State} (h : step s = .next t) :
    t.responses.length + t.commands.length = s.responses.length + s.commands.length := by
  obtain ⟨hcommands, hresponses⟩ | ⟨w, r, hcommands, hresponses⟩ := oneResponsePerConsumedCommandInOrder s t h
  · rw [hcommands, hresponses]
  · simp only [hcommands, hresponses, List.length_append, List.length_cons, List.length_nil]
    omega

/-! ## Progress -/

/-- A command that does not wait for READY is answered in every accepting state (R202). -/
theorem exists_answer_of_not_waiting {s : State} {w : CmdWord} (hs : s.accepting)
    (hw : waitsForReady (decode w) = false) : ∃ t, commandTurn (s.withHead w) = .next t ∧ t.commands = s.commands := by
  have hcs := s.withHead_commands w
  have hs' := withHead_accepting hs w
  cases hd : decode w with
  | illegal why => exact ⟨_, (commandTurn_of_illegal hcs hd).trans (execIllegal_of_accepting hs'), rfl⟩
  | command i =>
    have hturn := commandTurn_of_command hcs hd
    rw [hd] at hw
    cases i with
    | keyb data => exact ⟨_, hturn.trans (exec_keyb_of_accepting hs' data), rfl⟩
    | ivb data => exact ⟨_, hturn.trans (exec_ivb_of_accepting hs' data), rfl⟩
    | init => exact ⟨_, hturn.trans (exec_init_of_accepting hs'), rfl⟩
    | gen n =>
      have hn : n < 0 := by simpa [waitsForReady] using hw
      exact ⟨_, hturn.trans (exec_gen_neg_of_accepting hs' hn), rfl⟩
    | xorb data => cases hw
    | stat => exact ⟨_, hturn.trans (exec_stat_of_accepting hs'), rfl⟩

/-- A head word that is not held is consumed by the command port's turn (R51, R205). -/
theorem commandTurn_consumes {s : State} {w : CmdWord} {cs : List CmdWord} (hallowed : s.violation = none)
    (hcs : s.commands = w :: cs) (h : s.holds w = false) : ∃ t, commandTurn s = .next t ∧ t.commands = cs := by
  obtain ⟨hroom, hfree⟩ : s.channelFull = false ∧ (s.phase = .warmup → waitsForReady (decode w) = false) := by
    simpa [State.holds] using h
  have hrest : State.accepting { s with commands := cs } := ⟨hallowed, hroom⟩
  have hhead : State.withHead { s with commands := cs } w = s := by rw [State.withHead, ← hcs]
  cases hw : waitsForReady (decode w) with
  | false => exact hhead ▸ exists_answer_of_not_waiting hrest hw
  | true =>
    have hp : s.phase ≠ .warmup := fun hp => by simp [hfree hp] at hw
    obtain ⟨t, hturn, hout⟩ := exists_outcome_of_waitsForReady hrest hw
    refine ⟨t, hhead ▸ hturn, ?_⟩
    rw [if_neg (c := s.phase = .warmup) hp] at hout
    split at hout <;> exact hout.1

/-- The head command can move exactly when there is one and it is not held. -/
theorem exists_head_of_headCanMove {s : State} (h : s.headCanMove = true) :
    ∃ w cs, s.commands = w :: cs ∧ s.holds w = false := by
  cases hcs : s.commands with
  | nil => simp [State.headCanMove, hcs] at h
  | cons w cs => exact ⟨w, cs, rfl, by simpa [headCanMove_of_head hcs] using h⟩

/-- A step made progress: it consumed a word, or raised WCNT by 1 (R197). -/
def Progress (s t : State) : Prop :=
  t.commands.length + 1 = s.commands.length ∨ (t.commands = s.commands ∧ t.wcnt.toNat = s.wcnt.toNat + 1)

section
variable {s : State} (hinv : s.Inv)
include hinv

/-- In WARMUP the warm-up engine makes progress. -/
theorem State.Inv.warmup_progress (hp : s.phase = .warmup) : ∃ t, warmupTurn s = .next t ∧ Progress s t :=
  ⟨Machine.wstep s, warmupTurn_of_warmup hinv.violation_eq_none hp,
    .inr ⟨wstep_commands s, wcnt_succ_toNat (hinv.wcnt_le_of_warmup hp)⟩⟩

/-- The command port makes progress on a head word that is not held. -/
theorem State.Inv.command_progress {w : CmdWord} {cs : List CmdWord} (hcs : s.commands = w :: cs)
    (h : s.holds w = false) : ∃ t, commandTurn s = .next t ∧ Progress s t := by
  obtain ⟨t, hturn, ht⟩ := commandTurn_consumes hinv.violation_eq_none hcs h
  exact ⟨t, hturn, .inl (by rw [ht, hcs, List.length_cons])⟩

end

/-- Settles O48: in WARMUP whichever agent the default names makes progress; elsewhere there is a head word, and nothing
holds it. -/
theorem unfinishedRunsMakeProgress : Obligations.UnfinishedRunsMakeProgress := by
  intro s hinv hcap hschedule hunfinished
  by_cases hp : s.phase = .warmup
  · cases hmove : s.headCanMove with
    | false =>
      rw [step_of_stuck_in_warmup hschedule hp hmove]
      exact hinv.warmup_progress hp
    | true =>
      obtain ⟨w, cs, hcs, hfree⟩ := exists_head_of_headCanMove hmove
      have htick : State.Inv { s with tick := s.tick + 1 } := hinv
      rw [step_of_movable_in_warmup hschedule hp hmove]
      split
      · exact htick.warmup_progress hp
      · exact htick.command_progress hcs hfree
  · obtain ⟨w, cs, hcs⟩ : ∃ w cs, s.commands = w :: cs :=
      List.exists_cons_of_ne_nil fun hnil => hunfinished ⟨hnil, hp⟩
    have hfree : s.holds w = false := by simp [State.holds, hcap, hp]
    rw [step_of_not_warmup hschedule hp]
    exact hinv.command_progress hcs hfree

/-! ## Runs -/

/-- The first step of a run that answers a next state. -/
theorem machine_run_succ_cases (M : Host.Core) {k : Nat} {s t : M.State} (h : M.run (k + 1) s = .next t) :
    ∃ u, M.step s = .next u ∧ M.run k u = .next t := by
  rw [Host.Core.run] at h
  cases hs : M.step s with
  | next u => exact ⟨u, rfl, by simpa only [hs] using h⟩
  | fault f => simp only [hs, reduceCtorEq] at h
  | refused r => simp only [hs, reduceCtorEq] at h

/-- What every step keeps, every run keeps. -/
theorem run_keeps {P : State → Prop} (hstep : ∀ s t, P s → step s = .next t → P t) {k : Nat} {s t : State} (hs : P s)
    (hrun : Host.Core.run Sys2Proof.core k s = .next t) : P t := by
  induction k generalizing s with
  | zero => exact Host.Outcome.next.inj hrun ▸ hs
  | succ k ih =>
    obtain ⟨u, hfirst, hrest⟩ := machine_run_succ_cases Sys2Proof.core hrun
    exact ih (hstep s u hs hfirst) hrest

/-- The invariant with an unbounded channel: what the statements about whole runs start from. -/
def State.Runnable (s : State) : Prop := s.Inv ∧ s.respCap = none

theorem State.Runnable.step {s t : State} (h : s.Runnable) (hstep : step s = .next t) : t.Runnable := by
  obtain ⟨hinv, hcap⟩ := h
  obtain ⟨-, ht⟩ := step_schedule_respCap hstep
  exact ⟨everyStepKeepsTheInvariant s t hinv hstep, ht.trans hcap⟩

/-- Some run uses up the schedule: every turn on it is taken. -/
theorem exists_run_schedule_nil {s : State} (h : s.Runnable) :
    ∃ k t, Host.Core.run Sys2Proof.core k s = .next t ∧ t.Runnable ∧ t.schedule = [] := by
  generalize hschedule : s.schedule = turns
  induction turns generalizing s with
  | nil => exact ⟨0, s, rfl, h, hschedule⟩
  | cons turn rest ih =>
    obtain ⟨u, hu⟩ := step_total h.1.violation_eq_none
    obtain ⟨hrest, -⟩ := step_schedule_respCap hu
    obtain ⟨k, t, hrun, ht⟩ := ih (h.step hu) (by rw [hrest, hschedule, List.tail_cons])
    exact ⟨k + 1, t, (run_succ_of_step hu k).trans hrun, ht⟩

/-- Words left, and then warm-up steps left: the measure that every step of progress lowers. INIT restarts the warm-up,
which 1153 a word pays for. -/
def State.workLeft (s : State) : Nat := 1153 * s.commands.length + (1152 - s.wcnt.toNat)

theorem Progress.workLeft_lt {s t : State} (h : Progress s t) (hle : t.wcnt.toNat ≤ 1152) :
    t.workLeft < s.workLeft := by
  unfold State.workLeft
  obtain hlen | ⟨hcommands, hwcnt⟩ := h
  · omega
  · rw [hcommands]
    omega

/-- With no turn fixed, some run is finished. -/
theorem exists_run_finished {s : State} (h : s.Runnable) (hschedule : s.schedule = []) :
    ∃ k t, Host.Core.run Sys2Proof.core k s = .next t ∧ t.finished ∧ t.schedule = [] := by
  induction hn : s.workLeft using Nat.strong_induction_on generalizing s with
  | _ n ih =>
    subst hn
    by_cases hfinished : s.finished
    · exact ⟨0, s, rfl, hfinished, hschedule⟩
    · obtain ⟨u, hu, hprogress⟩ := unfinishedRunsMakeProgress s h.1 h.2 hschedule hfinished
      have hnext := h.step hu
      obtain ⟨hrest, -⟩ := step_schedule_respCap hu
      obtain ⟨k, t, hrun, ht⟩ := ih u.workLeft (Progress.workLeft_lt hprogress hnext.1.wcnt_le) hnext
        (by rw [hrest, hschedule, List.tail_nil]) rfl
      exact ⟨k + 1, t, (run_succ_of_step hu k).trans hrun, ht⟩

/-- Settles O49: the schedule is used up, then the measure falls to a finished state, and every step leaves the number
of responses delivered and due as it was. -/
theorem everyFiniteRunEnds : Obligations.EveryFiniteRunEnds := by
  intro s hinv hcap
  obtain ⟨j, u, hfirst, hu, hschedule⟩ := exists_run_schedule_nil ⟨hinv, hcap⟩
  obtain ⟨k, t, hsecond, hfinished, ht⟩ := exists_run_finished hu hschedule
  have hrun := run_trans hfirst hsecond
  have hcount : t.responses.length + t.commands.length = s.responses.length + s.commands.length :=
    run_keeps (P := fun t => t.responses.length + t.commands.length = s.responses.length + s.commands.length)
      (fun _ _ hP hstep => (step_responses_length hstep).trans hP) rfl hrun
  obtain ⟨hnil, -⟩ := id hfinished
  refine ⟨j + k, t, hrun, hfinished, ht, ?_⟩
  rw [← hcount, hnil, List.length_nil, Nat.add_zero]

end Sys2Proof.Machine
end

section
/-! SUPPORT. The statement about sessions (spec/41_load_commands.md R145): the staging buffers hold the normal forms of
the bytes staged so far, whatever commands other than INIT come between. -/

namespace Sys2Proof.Machine

/-- The buffer and the count are what staging `bytes` from an empty buffer leaves: the normal form, and as many as fit
(R100, R145). -/
def Staged (bytes : List Byte) (buf : TenBytes) (cnt : BitVec 4) : Prop :=
  buf = normalizeBuf bytes ∧ cnt.toNat = min 10 bytes.length

theorem normalizeBuf_getElem (buf : List Byte) {i : Nat} (hi : i < 10) : (normalizeBuf buf)[i] = buf.getD i 0#8 :=
  Vector.getElem_ofFn hi

theorem staged_nil : Staged [] TenBytes.zero 0#4 := by
  refine ⟨?_, rfl⟩
  apply Vector.ext
  intro i hi
  simp [TenBytes.zero, normalizeBuf_getElem]

theorem Staged.cnt_le {bytes : List Byte} {buf : TenBytes} {cnt : BitVec 4} (h : Staged bytes buf cnt) :
    cnt.toNat ≤ 10 := h.2.trans_le (Nat.min_le_left ..)

/-- One byte more (R140, R141): it goes to the index that is the number of bytes before it, if that is below 10. -/
theorem Staged.append {bytes : List Byte} {buf : TenBytes} {cnt : BitVec 4} (h : Staged bytes buf cnt) (data : Byte) :
    Staged (bytes ++ [data]) (stageBuf data buf cnt) (stageCnt cnt) := by
  have hle := h.cnt_le
  obtain ⟨rfl, hcnt⟩ := h
  constructor
  · apply Vector.ext
    intro i hi
    rw [stageBuf_getElem data _ cnt i hi, normalizeBuf_getElem _ hi, normalizeBuf_getElem _ hi]
    obtain hlt | rfl | hgt := Nat.lt_trichotomy i bytes.length
    · rw [if_neg (by omega), List.getD_append _ _ _ _ hlt]
    · rw [if_pos (by omega), List.getD_append_right _ _ _ _ le_rfl, Nat.sub_self, List.getD_cons_zero]
    · rw [if_neg (by omega), List.getD_eq_default _ _ (by omega), List.getD_eq_default]
      simpa using hgt
  · rw [stageCnt_toNat cnt hle, hcnt, List.length_append, List.length_singleton]
    omega

/-- Empty staging buffers are staged with no bytes. -/
theorem staged_of_stagingEmpty {s : State} (h : s.stagingEmpty) :
    Staged [] s.keybuf s.keycnt ∧ Staged [] s.ivbuf s.ivcnt := by
  obtain ⟨hkeybuf, hkeycnt, hivbuf, hivcnt⟩ := h
  rw [hkeybuf, hkeycnt, hivbuf, hivcnt]
  exact ⟨staged_nil, staged_nil⟩

/-- A state the spec allows, with an unbounded channel, and the bytes its staging buffers were loaded with. -/
def State.Loading (s : State) (key iv : List Byte) : Prop :=
  s.violation = none ∧ s.respCap = none ∧ Staged key s.keybuf s.keycnt ∧ Staged iv s.ivbuf s.ivcnt

/-- A command other than INIT stages the byte it carries, if it is a KEYB or IVB, and leaves the rest of the staging
state (R33, R140, R141). -/
theorem State.Loading.exec {i : Instr} {s t : State} {key iv : List Byte} (hs : s.Loading key iv) (hi : i ≠ .init)
    (h : exec i s = .next t) : t.Loading (key ++ keyBytes [i]) (iv ++ ivBytes [i]) := by
  obtain ⟨hallowed, hcap, hkey, hiv⟩ := hs
  have hacc : s.accepting := ⟨hallowed, channelFull_of_unbounded hcap⟩
  obtain ⟨-, htcap, -⟩ := exec_environment h
  obtain ⟨-, hkeep, hivkeep⟩ := exec_registers_staging h
  refine ⟨exec_violation h, htcap.trans hcap, ?_, ?_⟩
  · cases i with
    | keyb data =>
      rw [exec_keyb_of_accepting hacc] at h
      exact Host.Outcome.next.inj h ▸ hkey.append data
    | init => exact absurd rfl hi
    | _ =>
      obtain ⟨hbuf, hcnt⟩ := hkeep nofun nofun
      rw [hbuf, hcnt]
      simpa [keyBytes] using hkey
  · cases i with
    | ivb data =>
      rw [exec_ivb_of_accepting hacc] at h
      exact Host.Outcome.next.inj h ▸ hiv.append data
    | init => exact absurd rfl hi
    | _ =>
      obtain ⟨hbuf, hcnt⟩ := hivkeep nofun nofun
      rw [hbuf, hcnt]
      simpa [ivBytes] using hiv

theorem keyBytes_cons (i : Instr) (is : List Instr) : keyBytes (i :: is) = keyBytes [i] ++ keyBytes is := by
  cases i <;> rfl

theorem ivBytes_cons (i : Instr) (is : List Instr) : ivBytes (i :: is) = ivBytes [i] ++ ivBytes is := by
  cases i <;> rfl

theorem execAll_cons_of_next {i : Instr} {s u : State} (h : exec i s = .next u) (is : List Instr) :
    execAll (i :: is) s = execAll is u := by
  rw [execAll, h]

/-- Commands other than INIT, and then an INIT, from a state that is being loaded: all are performed or held, and INIT
loads the bytes among them. -/
theorem State.Loading.execAll_init {is : List Instr} {s : State} {key iv : List Byte} (hs : s.Loading key iv)
    (hi : .init ∉ is) : ∃ u, execAll (is ++ [.init]) s = .next (respond .ok [] (loadSession u)) ∧
      u.Loading (key ++ keyBytes is) (iv ++ ivBytes is) := by
  induction is generalizing s key iv with
  | nil =>
    obtain ⟨hallowed, hcap, -⟩ := id hs
    have hinit := exec_init_of_accepting ⟨hallowed, channelFull_of_unbounded hcap⟩
    exact ⟨s, execAll_cons_of_next hinit [], by simpa [keyBytes, ivBytes] using hs⟩
  | cons i is ih =>
    obtain ⟨hne, hrest⟩ := not_or.mp (List.mem_cons.not.mp hi)
    obtain ⟨t, ht⟩ := exec_total hs.1 i
    obtain ⟨u, hrun, hu⟩ := ih (hs.exec (Ne.symm hne) ht) hrest
    refine ⟨u, (execAll_cons_of_next ht _).trans hrun, ?_⟩
    rw [keyBytes_cons, ivBytes_cons, ← List.append_assoc, ← List.append_assoc]
    exact hu

/-- As many warm-up turns as WCNT is short of 1152 end the warm-up (R144). -/
theorem run_warmupTurns_to_ready {s : State} {k : Nat} (hallowed : s.violation = none) (hp : s.phase = .warmup)
    (hwcnt : s.wcnt.toNat ≤ 1151) (hdone : s.wcnt.toNat + k = 1152) :
    ∃ u, Host.Core.run Sys2Proof.core k { s with schedule := List.replicate k .warmup } = .next u ∧
      u.phase = .ready ∧ u.cipher = s.cipher.steps k := by
  have hrun := run_warmupTurns (s := { s with schedule := [] }) hallowed hp hwcnt hdone.le
  rw [List.append_nil] at hrun
  exact ⟨_, hrun, if_pos hdone, rfl⟩

/-- Settles O51: INIT loads the normal forms that are staged, and 1152 warm-up turns from there are WarmUp. -/
theorem sessionStartsAtItsKeystream : Obligations.SessionStartsAtItsKeystream := by
  intro is s hallowed hcap hempty hi
  have hs : s.Loading [] [] := ⟨hallowed, hcap, staged_of_stagingEmpty hempty⟩
  obtain ⟨v, hrun, -, -, ⟨hkey, -⟩, ⟨hiv, -⟩⟩ := hs.execAll_init hi
  have hcipher : (loadSession v).cipher = cipherInit (normalizeBuf (keyBytes is)) (normalizeBuf (ivBytes is)) := by
    rw [loadSession_cipher, hkey, hiv, List.nil_append, List.nil_append]
  have hdone : (loadSession v).wcnt.toNat + 1152 = 1152 := Nat.zero_add 1152
  obtain ⟨u, hwarm, hready, hu⟩ := run_warmupTurns_to_ready (s := respond .ok [] (loadSession v))
    (loadSession_violation v) (loadSession_phase v) (Nat.zero_le 1151) hdone
  exact ⟨_, u, hrun, hcipher, loadSession_phase v, hwarm, hready,
    by rw [hu, respond_cipher, hcipher, keystreamStart, Cipher.warmUp]⟩

end Sys2Proof.Machine
end

section
/-! SUPPORT. The answers a run will have given (spec/44_host_operations.md R193, R194): a sequential session that knows
nothing of the warm-up engine, what it foretells of every state, and that no step of a quiet run changes the
foretelling. -/

namespace Sys2Proof.Machine

/-! ## The sequential session -/

/-- What the answers to the words still to be performed depend on: the staging state, and the registers GEN and XORB
draw from once the warm-up is over; none in IDLE. -/
structure Session where
  keybuf : TenBytes
  keycnt : BitVec 4
  ivbuf : TenBytes
  ivcnt : BitVec 4
  stream : Option Cipher

/-- GEN and XORB by the session: NOT_INITIALIZED without a stream, else what is drawn from it (R161, R162). -/
def Session.drawing (c : Session) (k : Cipher → List Byte × Cipher) : Response × Session :=
  match c.stream with
  | none => (⟨.notInitialized, []⟩, c)
  | some x => (⟨.ok, (k x).1⟩, { c with stream := some (k x).2 })

/-- The answer to a command and the session after it. The payload of STAT depends on how far the warm-up is, so the
statements about sessions leave STAT out (`Plain`), and its line here is used by none of them. -/
def Session.answer (c : Session) : Instr → Response × Session
  | .keyb data => (⟨.ok, []⟩, { c with keybuf := stageBuf data c.keybuf c.keycnt, keycnt := stageCnt c.keycnt })
  | .ivb data => (⟨.ok, []⟩, { c with ivbuf := stageBuf data c.ivbuf c.ivcnt, ivcnt := stageCnt c.ivcnt })
  | .init => (⟨.ok, []⟩, ⟨TenBytes.zero, 0#4, TenBytes.zero, 0#4, some (cipherInit c.keybuf c.ivbuf).warmUp⟩)
  | .gen n => if n < 0 then (⟨.invalidArgument, Config.lengthBytesName⟩, c) else c.drawing fun x => x.draw n.toNat
  | .xorb data => c.drawing fun x => ([data ^^^ x.nextByte.1], x.nextByte.2)
  | .stat => (⟨.ok, []⟩, c)

/-- The answers to a sequence of commands. -/
def Session.answers : List Instr → Session → List Response
  | [], _ => []
  | i :: is, c => (c.answer i).1 :: Session.answers is (c.answer i).2

/-- The registers GEN and XORB will draw from: those of READY, which the rest of the warm-up leads to (R111, R144). -/
def State.stream (s : State) : Option Cipher :=
  match s.phase with
  | .idle => none
  | .warmup => some (s.cipher.steps (1152 - s.wcnt.toNat))
  | .ready => some s.cipher
  | .reserved => none

/-- The session a state is in. -/
def State.session (s : State) : Session := ⟨s.keybuf, s.keycnt, s.ivbuf, s.ivcnt, s.stream⟩

theorem stream_of_idle {s : State} (hp : s.phase = .idle) : s.stream = none := by
  simp only [State.stream, hp]

theorem stream_of_warmup {s : State} (hp : s.phase = .warmup) :
    s.stream = some (s.cipher.steps (1152 - s.wcnt.toNat)) := by
  simp only [State.stream, hp]

theorem stream_of_ready {s : State} (hp : s.phase = .ready) : s.stream = some s.cipher := by
  simp only [State.stream, hp]

theorem drawing_of_idle {s : State} (hp : s.phase = .idle) (k : Cipher → List Byte × Cipher) :
    s.session.drawing k = (⟨.notInitialized, []⟩, s.session) := by
  simp only [Session.drawing, State.session, stream_of_idle hp]

/-- Drawing from the stream of a state in READY is drawing from its registers. -/
theorem drawing_of_ready {s : State} (hp : s.phase = .ready) (k : Cipher → List Byte × Cipher) :
    s.session.drawing k = (⟨.ok, (k s.cipher).1⟩, State.session { s with cipher := (k s.cipher).2 }) := by
  have hdrawn : State.stream { s with cipher := (k s.cipher).2 } = some (k s.cipher).2 := stream_of_ready hp
  simp only [Session.drawing, State.session, stream_of_ready hp, hdrawn]

/-- What INIT loads is warmed up in full (R142, R144). -/
theorem loadSession_session (s : State) : (loadSession s).session =
    ⟨TenBytes.zero, 0#4, TenBytes.zero, 0#4, some (cipherInit s.keybuf s.ivbuf).warmUp⟩ := by
  have hstream := stream_of_warmup (loadSession_phase s)
  rw [loadSession_wcnt, BitVec.toNat_ofNat, Nat.zero_mod, Nat.sub_zero] at hstream
  rw [State.session, hstream]
  rfl

/-- A response is no part of the session. -/
@[simp] theorem respond_session (code : Code) (payload : List Byte) (s : State) :
    (respond code payload s).session = s.session := rfl

/-- A command is held, or gets the session's answer and leaves the session's next state (R140 to R162). -/
theorem exec_session {i : Instr} {s t : State} (hi : i ≠ .stat) (h : exec i s = .next t) : t = s ∨
    (t.commands = s.commands.tail ∧ t.responses = s.responses ++ [(s.session.answer i).1] ∧
      t.session = (s.session.answer i).2) := by
  obtain ⟨-, rfl | ⟨-, hc⟩⟩ := exec_cases h
  · exact .inl rfl
  · right
    obtain ⟨data, rfl, rfl⟩ | ⟨data, rfl, rfl⟩ | ⟨rfl, rfl⟩ | ⟨n, rfl, hn, rfl⟩ | ⟨n, rfl, hn, hp, rfl⟩ |
      ⟨n, rfl, hn, hp, rfl⟩ | ⟨data, rfl, hp, rfl⟩ | ⟨data, rfl, hp, rfl⟩ | ⟨rfl, rfl⟩ := hc
    · exact ⟨rfl, rfl, rfl⟩
    · exact ⟨rfl, rfl, rfl⟩
    · exact ⟨rfl, rfl, loadSession_session s⟩
    · simp [Session.answer, hn]
    · simp [Session.answer, not_lt.mpr hn, drawing_of_idle hp]
    · simp [Session.answer, not_lt.mpr hn, drawing_of_ready hp]
    · simp [Session.answer, drawing_of_idle hp]
    · simp [Session.answer, drawing_of_ready hp]
    · exact absurd rfl hi

/-- A warm-up step brings the registers one step nearer to the same stream (R143, R144). -/
theorem wstep_stream {s : State} (hp : s.phase = .warmup) (hle : s.wcnt.toNat ≤ 1151) :
    (wstep s).stream = s.stream := by
  obtain ⟨k, hk⟩ : ∃ k, 1152 - s.wcnt.toNat = k + 1 := ⟨1151 - s.wcnt.toNat, by omega⟩
  have hphase := wstep_phase_of_warmup hp hle
  rw [stream_of_warmup hp, hk, Cipher.steps_succ]
  split at hphase
  case isTrue hlast =>
    obtain rfl : k = 0 := by omega
    rw [stream_of_ready hphase, wstep_cipher, Cipher.steps_zero]
  case isFalse =>
    have hleft : 1152 - (wstep s).wcnt.toNat = k := by
      rw [wstep_wcnt, wcnt_succ_toNat hle]
      omega
    rw [stream_of_warmup hphase, hleft, wstep_cipher]

theorem wstep_session {s : State} (hp : s.phase = .warmup) (hle : s.wcnt.toNat ≤ 1151) :
    (wstep s).session = s.session := by
  rw [State.session, wstep_stream hp hle]
  rfl

theorem takeResponse_session (s : State) : (takeResponse s).session = s.session := by
  unfold takeResponse
  split <;> rfl

/-! ## The foretelling -/

/-- A command that some word carries and whose answer does not depend on how far the warm-up is: every command of a
transaction (R190, R191). -/
def Plain (i : Instr) : Prop := i.wellFormed = true ∧ i ≠ .stat

/-- `s` foretells `rs`: what it has answered, and what its session answers to the commands left, is `rs` in the end. -/
def State.Foretells (s : State) (rs : List Response) : Prop :=
  ∃ is, s.commands = is.map encode ∧ (∀ i ∈ is, Plain i) ∧ s.responses ++ s.session.answers is = rs

/-- Neither the stream of commands, nor the responses, nor the session changed, so the foretelling did not. -/
theorem State.Foretells.of_eq {s t : State} {rs : List Response} (h : s.Foretells rs)
    (hcommands : t.commands = s.commands) (hresponses : t.responses = s.responses) (hsession : t.session = s.session) :
    t.Foretells rs := by
  rwa [State.Foretells, hcommands, hresponses, hsession]

/-- A turn of the command port moves one answer from the foretelling to the responses, or does nothing. -/
theorem State.Foretells.commandTurn {s t : State} {rs : List Response} (h : s.Foretells rs)
    (hturn : commandTurn s = .next t) : t.Foretells rs := by
  obtain ⟨-, -, rfl⟩ | ⟨w, cs, j, hcs, hd, hexec⟩ | ⟨w, cs, why, hcs, hd, hexec⟩ := commandTurn_cases hturn
  · exact h
  all_goals
    obtain ⟨is, hwords, hplain, rfl⟩ := id h
    obtain ⟨i, is, rfl, rfl, rfl⟩ := List.map_eq_cons_iff.mp (hwords.symm.trans hcs)
    obtain ⟨⟨hwf, hstat⟩, hrest⟩ := List.forall_mem_cons.mp hplain
    have hdecode := (decodeOfEncodeGivesTheCommand i hwf).symm.trans hd
  · obtain rfl : i = j := Decoded.command.inj hdecode
    obtain rfl | ⟨hcommands, hresponses, hsession⟩ := exec_session hstat hexec
    · exact h
    · refine ⟨is, by rw [hcommands, hcs, List.tail_cons], hrest, ?_⟩
      rw [hresponses, hsession, List.append_assoc]
      rfl
  · cases hdecode

/-- No turn but a reset changes the foretelling. -/
theorem State.Foretells.runTurn {s t : State} {rs : List Response} (h : s.Foretells rs) (hinv : s.Inv) {turn : Turn}
    (hreset : turn ≠ .reset) (hrun : runTurn turn s = .next t) : t.Foretells rs := by
  cases turn with
  | command => exact h.commandTurn hrun
  | warmup =>
    obtain ⟨-, ⟨hp, rfl⟩ | ⟨-, rfl⟩⟩ := warmupTurn_cases hrun
    · exact h.of_eq (wstep_commands s) (wstep_responses s) (wstep_session hp (hinv.wcnt_le_of_warmup hp))
    · exact h
  | take =>
    obtain ⟨-, rfl⟩ := takeTurn_cases hrun
    exact h.of_eq (takeResponse_commands s) (takeResponse_responses s) (takeResponse_session s)
  | reset => exact absurd rfl hreset

/-- No step of a quiet run changes the foretelling. -/
theorem State.Foretells.step {s t : State} {rs : List Response} (h : s.Foretells rs) (hinv : s.Inv) (hquiet : s.quiet)
    (hstep : step s = .next t) : t.Foretells rs := by
  obtain ⟨turn, u, hturn, hu, hreset⟩ := step_eq_runTurn_upto_schedule s
  have hforetells : u.Foretells rs := by rw [hu]; exact h
  have huinv : u.Inv := by rw [hu]; exact hinv
  refine hforetells.runTurn huinv (fun hr => ?_) (hturn ▸ hstep)
  obtain ⟨rest, hschedule⟩ := hreset hr
  exact hquiet.1 (hschedule ▸ List.mem_cons_self ..)

/-- A step of a quiet run leaves a quiet run (R192). -/
theorem State.quiet.step {s t : State} (h : s.quiet) (hstep : step s = .next t) : t.quiet := by
  obtain ⟨hreset, hcap⟩ := h
  obtain ⟨hschedule, htcap⟩ := step_schedule_respCap hstep
  exact ⟨fun hmem => hreset (List.mem_of_mem_tail (hschedule ▸ hmem)), htcap.trans hcap⟩

/-- A quiet run of plain commands ends with the answers of the session it started in, whatever the schedule. -/
theorem exists_run_of_plain {s : State} {is : List Instr} (hinv : s.Inv) (hquiet : s.quiet) (hempty : s.commands = [])
    (hplain : ∀ i ∈ is, Plain i) :
    ∃ k t, Host.Core.run Sys2Proof.core k (s.present (is.map encode)) = .next t ∧ t.finished ∧
      t.responses = s.responses ++ s.session.answers is := by
  have hstart : (s.present (is.map encode)).Foretells (s.responses ++ s.session.answers is) :=
    ⟨is, by rw [State.present_commands, hempty, List.nil_append], hplain, rfl⟩
  obtain ⟨k, t, hrun, hfinished, -, -⟩ := everyFiniteRunEnds (s.present (is.map encode)) hinv hquiet.2
  obtain ⟨-, -, js, hwords, -, hresponses⟩ :=
    run_keeps (s := s.present (is.map encode))
      (P := fun u => u.Inv ∧ u.quiet ∧ u.Foretells (s.responses ++ s.session.answers is))
      (fun u v ⟨hu, hq, hf⟩ hstep => ⟨everyStepKeepsTheInvariant u v hu hstep, hq.step hstep, hf.step hu hq hstep⟩)
      ⟨hinv, hquiet, hstart⟩ hrun
  obtain rfl : js = [] := List.map_eq_nil_iff.mp (hwords.symm.trans hfinished.1)
  exact ⟨k, t, hrun, hfinished, by rw [← hresponses, Session.answers, List.append_nil]⟩

end Sys2Proof.Machine
end

section
/-! SUPPORT. The statements about the host's transactions (spec/44_host_operations.md R190 to R195): the commands whose
words they issue, and what the session answers to them. -/

namespace Sys2Proof.Machine

/-! ## The commands of a transaction -/

/-- The commands of a transaction: the key, the IV, INIT, and what draws the keystream (R190, R191). -/
def transaction (key iv : List Byte) (rest : List Instr) : List Instr :=
  key.map .keyb ++ (iv.map .ivb ++ .init :: rest)

/-- A transaction's lines assemble to the words of its commands, if the last line does. -/
theorem assemble_transaction {line : AsmLine} {rest : List Instr} (h : assembleLine line = rest.map encode)
    (key iv : List Byte) : assemble (sessionLines key iv ++ [line]) = (transaction key iv rest).map encode := by
  have hkey : assembleLine (.key key) = (key.map .keyb).map encode := by rw [List.map_map]; rfl
  have hiv : assembleLine (.iv iv) = (iv.map .ivb).map encode := by rw [List.map_map]; rfl
  have hinit : assembleLine (.instr .init) = [encode .init] := rfl
  simp [assemble, sessionLines, transaction, hkey, hiv, hinit, h]

/-- A transaction is plain, if what draws the keystream is: no other command of it carries a length (R195). -/
theorem transaction_plain {rest : List Instr} (h : ∀ i ∈ rest, Plain i) (key iv : List Byte) :
    ∀ i ∈ transaction key iv rest, Plain i := by
  have hkeyb : ∀ data, Plain (.keyb data) := fun _ => ⟨rfl, nofun⟩
  have hivb : ∀ data, Plain (.ivb data) := fun _ => ⟨rfl, nofun⟩
  have hinit : Plain .init := ⟨rfl, nofun⟩
  simpa [transaction, or_imp, forall_and, hkeyb, hivb, hinit] using h

/-- The commands of XORS (R71). -/
theorem hostXorWords_eq (key iv data : List Byte) :
    hostXorWords key iv data = (transaction key iv (data.map .xorb)).map encode :=
  assemble_transaction (by rw [assembleLine, List.map_map]; rfl) key iv

theorem xors_plain (data : List Byte) : ∀ i ∈ data.map Instr.xorb, Plain i := by
  have hxorb : ∀ data, Plain (.xorb data) := fun _ => ⟨rfl, nofun⟩
  simp [hxorb]

/-- GENs of the given lengths. -/
def gens (lengths : List Nat) : List Instr := lengths.map fun m : Nat => .gen (m : Int)

/-- GEN with a length in its range is plain (R63). -/
theorem gen_plain {n : Int} (hmin : -8388608 ≤ n) (hmax : n ≤ 8388607) : Plain (.gen n) :=
  ⟨(wellFormed_gen_iff n).mpr ⟨hmin, hmax⟩, nofun⟩

theorem gens_plain {lengths : List Nat} (h : ∀ m ∈ lengths, m ≤ 8388607) : ∀ i ∈ gens lengths, Plain i := by
  simp only [gens, List.forall_mem_map]
  intro m hm
  have hle := h m hm
  exact gen_plain (by omega) (by omega)

/-- The pieces of GENL (R71). -/
def genlLengths (n : Nat) : List Nat := List.replicate (n / 8388607) 8388607 ++ [n % 8388607]

theorem expandGenl_eq (n : Nat) : expandGenl n = gens (genlLengths n) := by
  simp [expandGenl, gens, genlLengths]

theorem genlLengths_sum (n : Nat) : (genlLengths n).sum = n := by
  simp [genlLengths, Nat.div_add_mod']

theorem genlLengths_le (n : Nat) : ∀ m ∈ genlLengths n, m ≤ 8388607 := by
  have hr : n % 8388607 ≤ 8388607 := (Nat.mod_lt n (by decide)).le
  simp [genlLengths, or_imp, forall_and, hr]

/-- The last line of HostGenerate for a length that is not negative: GENs in range whose lengths add up to it (R190). -/
theorem generateLine_of_nonneg {n : Int} (hn : 0 ≤ n) : ∃ lengths : List Nat,
    assembleLine (generateLine n) = (gens lengths).map encode ∧ lengths.sum = n.toNat ∧ ∀ m ∈ lengths, m ≤ 8388607 := by
  by_cases hmax : n ≤ 8388607
  · refine ⟨[n.toNat], ?_, by simp, by simpa using hmax⟩
    simp [generateLine, not_lt.mpr hn, hmax, assembleLine, gens, hn]
  · refine ⟨genlLengths n.toNat, ?_, genlLengths_sum _, genlLengths_le _⟩
    simp [generateLine, not_lt.mpr hn, hmax, assembleLine, expandGenl_eq]

/-- The last line of HostGenerate for a negative length: one GEN, its length in range and still negative (R190). -/
theorem generateLine_of_neg {n : Int} (hn : n < 0) :
    assembleLine (generateLine n) = [Instr.gen (max n Config.minLength)].map encode := by
  simp [generateLine, hn, assembleLine]

theorem clamped_plain {n : Int} (hn : n < 0) : Plain (.gen (max n Config.minLength)) :=
  gen_plain (le_max_right ..) (max_le (by omega) (by decide))

/-- HostGenerate issues the words of plain commands. -/
theorem exists_generate_commands (n : Int) : ∃ rest : List Instr,
    assembleLine (generateLine n) = rest.map encode ∧ ∀ i ∈ rest, Plain i := by
  obtain hn | hn := Int.lt_or_le n 0
  · exact ⟨_, generateLine_of_neg hn, by simpa using clamped_plain hn⟩
  · obtain ⟨lengths, hline, -, hle⟩ := generateLine_of_nonneg hn
    exact ⟨_, hline, gens_plain hle⟩

/-- The word of a plain command is legal. -/
theorem legal_of_plain {is : List Instr} (h : ∀ i ∈ is, Plain i) {w : CmdWord} (hw : w ∈ is.map encode) :
    ∃ i, decode w = .command i := by
  obtain ⟨i, hi, rfl⟩ := List.mem_map.mp hw
  exact ⟨i, decodeOfEncodeGivesTheCommand i (h i hi).1⟩

/-- The word of a GEN whose length fits the low 24 bits without a sign. -/
theorem encode_gen_natCast {r : Nat} (hr : r < 2 ^ 24) :
    encode (.gen r) = 0x04000000#32 ||| BitVec.ofNat 32 r := by
  have hopnd : lengthOpnd r = BitVec.ofNat 24 r := BitVec.ofInt_natCast ..
  have hword : 0x04000000 ||| r = 4 * 2 ^ 24 + r := (Nat.shiftLeft_add_eq_or_of_lt (a := 4) hr).symm
  apply BitVec.eq_of_toNat_eq
  rw [encode, hopnd, packWord, toNat_append_eq_mul_add, BitVec.toNat_or, BitVec.toNat_ofNat, BitVec.toNat_ofNat,
    BitVec.toNat_ofNat, BitVec.toNat_ofNat, Nat.mod_eq_of_lt hr, Nat.mod_eq_of_lt (hr.trans (by decide))]
  exact hword.symm

/-- Settles O52: the commands of a transaction are plain; GENL divides by 8388607. -/
theorem transactionWordsAreLegal : Obligations.TransactionWordsAreLegal := by
  refine ⟨fun key iv n w hw => ?generate, fun key iv data w hw => ?xor, fun n => ?genl⟩
  case generate =>
    obtain ⟨rest, hline, hrest⟩ := exists_generate_commands n
    exact legal_of_plain (transaction_plain hrest key iv) (assemble_transaction hline key iv ▸ hw)
  case xor => exact legal_of_plain (transaction_plain (xors_plain data) key iv) (hostXorWords_eq key iv data ▸ hw)
  case genl =>
    have hr : n % 8388607 < 8388607 := Nat.mod_lt n (by decide)
    refine ⟨n / 8388607, n % 8388607, (Nat.div_add_mod n 8388607).symm, hr, ?_⟩
    rw [← encode_gen_natCast (hr.trans (by decide)), expandGenl, List.map_append, List.map_replicate]
    rfl

end Sys2Proof.Machine
end

section
/-! SUPPORT. HostGenerate is Keystream and HostXor is XorTransform (spec/44_host_operations.md R193, R194): what the
sequential session answers to a transaction. -/

namespace Sys2Proof.Machine

/-! ## The answers to a transaction -/

/-- The session INIT opens at the registers `x`: nothing staged. -/
def Session.opened (x : Cipher) : Session := ⟨TenBytes.zero, 0#4, TenBytes.zero, 0#4, some x⟩

/-- `n` answers OK without a payload: what KEYB, IVB and INIT answer. -/
def oks (n : Nat) : List Response := List.replicate n ⟨.ok, []⟩

theorem oks_add (m n : Nat) : oks (m + n) = oks m ++ oks n := List.replicate_add ..

/-- The session after the bytes `key` and `iv` have been staged. -/
def Session.Loaded (c : Session) (key iv : List Byte) : Prop :=
  Staged key c.keybuf c.keycnt ∧ Staged iv c.ivbuf c.ivcnt

/-- Commands that stage one byte each are answered OK, and what each adds to the staged bytes adds up (R140, R141). -/
theorem answers_staging {make : Byte → Instr} {P : List Byte → Session → Prop}
    (hmake : ∀ c bytes data, P bytes c →
      (c.answer (make data)).1 = ⟨.ok, []⟩ ∧ P (bytes ++ [data]) (c.answer (make data)).2)
    {c : Session} {pre : List Byte} (h : P pre c) (bytes : List Byte) : ∃ c', P (pre ++ bytes) c' ∧
      ∀ rest, Session.answers (bytes.map make ++ rest) c = oks bytes.length ++ Session.answers rest c' := by
  induction bytes generalizing c pre with
  | nil => exact ⟨c, by rwa [List.append_nil], fun _ => rfl⟩
  | cons data bytes ih =>
    obtain ⟨hok, hdata⟩ := hmake c pre data h
    obtain ⟨c', hc', hanswers⟩ := ih hdata
    refine ⟨c', by rwa [List.append_assoc] at hc', fun rest => ?_⟩
    rw [List.map_cons, List.cons_append, Session.answers, hok, hanswers rest]
    rfl

/-- INIT opens the session at the keystream of the bytes staged (R142, R145). -/
theorem answers_init {c : Session} {key iv : List Byte} (h : c.Loaded key iv) (rest : List Instr) :
    Session.answers (.init :: rest) c = oks 1 ++ Session.answers rest (.opened (keystreamStart key iv)) := by
  obtain ⟨⟨hkey, -⟩, ⟨hiv, -⟩⟩ := h
  simp only [Session.answers, Session.answer, hkey, hiv]
  rfl

/-- A transaction's key, IV and INIT are answered OK, and what draws the keystream finds it at its start. -/
theorem answers_transaction {c : Session} (h : c.Loaded [] []) (key iv : List Byte) (rest : List Instr) :
    Session.answers (transaction key iv rest) c =
      oks (key.length + iv.length + 1) ++ Session.answers rest (.opened (keystreamStart key iv)) := by
  obtain ⟨c₁, h₁, hkey⟩ := answers_staging (make := .keyb) (P := fun bytes c => c.Loaded bytes [])
    (fun _ _ data ⟨hkey, hiv⟩ => ⟨rfl, hkey.append data, hiv⟩) h key
  obtain ⟨c₂, h₂, hiv⟩ := answers_staging (make := .ivb) (P := fun bytes c => c.Loaded key bytes)
    (fun _ _ data ⟨hkey, hiv⟩ => ⟨rfl, hkey, hiv.append data⟩) h₁ iv
  rw [transaction, hkey, hiv, answers_init h₂, oks_add, oks_add, List.append_assoc, List.append_assoc,
    List.nil_append]

/-- Draws compose: the second starts at the registers the first leaves (R57). -/
theorem Cipher.draw_add (m n : Nat) (x : Cipher) :
    (x.draw (m + n)).1 = (x.draw m).1 ++ ((x.draw m).2.draw n).1 := by
  rw [Cipher.draw_bytes, Cipher.draw_bytes, Cipher.draw_bytes, Cipher.draw_state, Cipher.ksBytes_add]

/-- GENs are answered OK, and their payloads are one draw of all their bytes (R161, R163). -/
theorem answers_gens (lengths : List Nat) (x : Cipher) :
    (∀ r ∈ Session.answers (gens lengths) (.opened x), r.code = .ok) ∧
      (Session.answers (gens lengths) (.opened x)).flatMap Response.payload = (x.draw lengths.sum).1 := by
  induction lengths generalizing x with
  | nil => exact ⟨nofun, rfl⟩
  | cons m lengths ih =>
    obtain ⟨hok, hpayload⟩ := ih (x.draw m).2
    have hcons : Session.answers (gens (m :: lengths)) (.opened x) =
        ⟨.ok, (x.draw m).1⟩ :: Session.answers (gens lengths) (.opened (x.draw m).2) := rfl
    rw [hcons, List.sum_cons, Cipher.draw_add, List.flatMap_cons, hpayload]
    exact ⟨List.forall_mem_cons.mpr ⟨rfl, hok⟩, rfl⟩

/-- XORBs are answered with the data XORed bytewise with one draw (R162). -/
theorem answers_xorbs (data : List Byte) (x : Cipher) :
    (Session.answers (data.map .xorb) (.opened x)).flatMap Response.payload =
      List.zipWith (· ^^^ ·) data (x.draw data.length).1 := by
  induction data generalizing x with
  | nil => rfl
  | cons d data ih =>
    have hcons : Session.answers ((d :: data).map .xorb) (.opened x) =
        ⟨.ok, [d ^^^ x.nextByte.1]⟩ :: Session.answers (data.map .xorb) (.opened x.nextByte.2) := rfl
    rw [hcons, List.flatMap_cons, ih, List.length_cons, Cipher.draw_succ, List.zipWith_cons_cons]
    rfl

/-! ## The runs of the transactions -/

/-- A transaction's run from empty staging buffers ends, whatever the schedule, and what draws the keystream is answered
from the start of the keystream of key and IV. -/
theorem exists_run_of_transaction {s : State} (hinv : s.Inv) (hquiet : s.quiet) (hstaging : s.stagingEmpty)
    (hempty : s.commands = []) (key iv : List Byte) {rest : List Instr} (hrest : ∀ i ∈ rest, Plain i) :
    ∃ k t, Host.Core.run Sys2Proof.core k (s.present ((transaction key iv rest).map encode)) = .next t ∧ t.finished ∧
      t.responses = s.responses ++ List.replicate (key.length + iv.length + 1) ⟨.ok, []⟩ ++
        Session.answers rest (.opened (keystreamStart key iv)) := by
  have hloaded : s.session.Loaded [] [] := staged_of_stagingEmpty hstaging
  obtain ⟨k, t, hrun, hfinished, hresponses⟩ :=
    exists_run_of_plain hinv hquiet hempty (transaction_plain hrest key iv)
  refine ⟨k, t, hrun, hfinished, ?_⟩
  rw [hresponses, answers_transaction hloaded, List.append_assoc]
  rfl

/-- Responses that are all OK are read as their payloads (R190). -/
theorem generateResult_of_ok {rs : List Response} (h : ∀ r ∈ rs, r.code = .ok) :
    generateResult rs = .bytes (rs.flatMap Response.payload) := by
  cases rs with
  | nil => rfl
  | cons r rs =>
    have hr : r.code ≠ .invalidArgument := by simp [h r]
    rw [generateResult, if_neg hr]

/-- A negative length is answered INVALID_ARGUMENT, and read as Keystream's error (R113, R190). -/
theorem generateResult_of_neg {n : Int} (hn : n < 0) (c : Session) (key iv : List Byte) :
    generateResult (Session.answers [.gen (max n Config.minLength)] c) = keystream key iv n := by
  have hclamped : max n Config.minLength < 0 := max_lt hn (by decide)
  simp [Session.answers, Session.answer, hclamped, generateResult, keystream_of_neg hn]

/-- GENs whose lengths add up to n are read as Keystream's n bytes (R113, R190). -/
theorem generateResult_of_nonneg {n : Int} (hn : 0 ≤ n) {lengths : List Nat} (hsum : lengths.sum = n.toNat)
    (key iv : List Byte) :
    generateResult (Session.answers (gens lengths) (.opened (keystreamStart key iv))) = keystream key iv n := by
  obtain ⟨hok, hpayload⟩ := answers_gens lengths (keystreamStart key iv)
  rw [generateResult_of_ok hok, hpayload, hsum, keystream_of_nonneg hn]

/-- Settles O53: the transaction's run, and its last line by the sign of n. -/
theorem hostGenerateIsKeystream : Obligations.HostGenerateIsKeystream := by
  intro s key iv n hinv hquiet hstaging hempty
  obtain hn | hn := Int.lt_or_le n 0
  · have hplain : ∀ i ∈ [Instr.gen (max n Config.minLength)], Plain i := by simpa using clamped_plain hn
    obtain ⟨k, t, hrun, hfinished, hresponses⟩ :=
      exists_run_of_transaction hinv hquiet hstaging hempty key iv hplain
    rw [← assemble_transaction (generateLine_of_neg hn)] at hrun
    exact ⟨k, t, _, hrun, hfinished, hresponses, generateResult_of_neg hn _ key iv⟩
  · obtain ⟨lengths, hline, hsum, hle⟩ := generateLine_of_nonneg hn
    obtain ⟨k, t, hrun, hfinished, hresponses⟩ :=
      exists_run_of_transaction hinv hquiet hstaging hempty key iv (gens_plain hle)
    rw [← assemble_transaction hline] at hrun
    exact ⟨k, t, _, hrun, hfinished, hresponses, generateResult_of_nonneg hn hsum key iv⟩

/-- Settles O54: the transaction's run, and the XORBs from the start of the keystream. -/
theorem hostXorIsXorTransform : Obligations.HostXorIsXorTransform := by
  intro s key iv data hinv hquiet hstaging hempty
  obtain ⟨k, t, hrun, hfinished, hresponses⟩ :=
    exists_run_of_transaction hinv hquiet hstaging hempty key iv (xors_plain data)
  rw [← hostXorWords_eq] at hrun
  exact ⟨k, t, _, hrun, hfinished, hresponses, answers_xorbs data (keystreamStart key iv)⟩

end Sys2Proof.Machine
end
